-- ==== Sys2Proof/Word.lean ====
section
/-! DEFINITION. The word and byte types of the datapath (R5, R6, R7) and the record of eight like things the
register file, the saved copy and the initial vector are written in (R20, R21, R23). -/

namespace Sys2Proof

/-- A byte, 8 bits (R7). -/
abbrev Byte := BitVec 8

/-- A datapath word, 32 bits, unsigned; bit 0 is the least significant (R5, R6). -/
abbrev Word := BitVec 32

/-- Eight like things under the names `A..H` of R20; index `r` of the rules is the `r`-th field. -/
structure Octet (α : Type) where
  a : α
  b : α
  c : α
  d : α
  e : α
  f : α
  g : α
  h : α
  deriving DecidableEq, Repr

end Sys2Proof
end

