-- ==== Sys2Proof/Syntax.lean ====
section
/-! DEFINITION. The instructions: the fifteen micro-operations of format `U` and the two host commands of format
`HC` (opcode_table.json; R60, R62, R63), the operation codes, the code words and the names a decoder rejects by. -/

namespace Sys2Proof

/-- The fifteen operation codes of R63's map that are not reserved. -/
inductive OpCode where
  | wait | chk | pad | init | ldblk | ldw | wgen | wpgen | save | round | ffwd | nxtb | digest | hex | done
  deriving DecidableEq, Repr

/-- One constructor per row of the opcode table. An index operand is the 7-bit field `idx` of R62 as it stands
(R64); a host command carries `msg_present` and `msg_len` of R60. -/
inductive Instr where
  /-- `WAIT` (R125) -/
  | wait
  /-- `CHK` (R126) -/
  | chk
  /-- `PAD` (R82) -/
  | pad
  /-- `INIT` (R127) -/
  | init
  /-- `LDBLK` (R90) -/
  | ldblk
  /-- `LDW j` (R95) -/
  | ldw (j : BitVec 7)
  /-- `WGEN j` (R96) -/
  | wgen (j : BitVec 7)
  /-- `WPGEN j` (R97) -/
  | wpgen (j : BitVec 7)
  /-- `SAVE` (R104) -/
  | save
  /-- `ROUND i` (R105) -/
  | round (i : BitVec 7)
  /-- `FFWD` (R106) -/
  | ffwd
  /-- `NXTB` (R91) -/
  | nxtb
  /-- `DIGEST` (R115) -/
  | digest
  /-- `HEX` (R117) -/
  | hex
  /-- `DONE` (R128) -/
  | done
  /-- `COMPUTE` (R129) -/
  | compute (present : BitVec 1) (len : BitVec 64)
  /-- `COMPUTE_HEX` (R130) -/
  | computeHex (present : BitVec 1) (len : BitVec 64)
  deriving DecidableEq, Repr

/-- A code word of one of the two fixed-length formats (R60, R62, R66). -/
inductive CodeWord where
  /-- format `U`, 12 bits -/
  | u (w : BitVec 12)
  /-- format `HC`, 66 bits -/
  | hc (w : BitVec 66)
  deriving DecidableEq, Repr

/-- Why a control word is reserved (R65). -/
inductive Reject where
  /-- `OP = 0xF` -/
  | reservedOp
  /-- `Z = 1` -/
  | zSet
  /-- `idx` outside the legal range of its `OP` -/
  | idxOutOfRange
  deriving DecidableEq, Repr

end Sys2Proof
end

