-- ==== Sys2Proof/WellFormed.lean ====
section
/-! DEFINITION. Which instructions are well formed: the legal index ranges of R63. Every host command is (R60). -/

namespace Sys2Proof

/-- `idx` is in the legal range R63 gives its operation. -/
def Instr.wf : Instr → Bool
  | .ldw j => decide (j.toNat ≤ 15)
  | .wgen j => decide (16 ≤ j.toNat ∧ j.toNat ≤ 67)
  | .wpgen j => decide (j.toNat ≤ 63)
  | .round i => decide (i.toNat ≤ 63)
  | .wait | .chk | .pad | .init | .ldblk | .save | .ffwd | .nxtb | .digest | .hex | .done => true
  | .compute _ _ | .computeHex _ _ => true

end Sys2Proof
end

