-- ==== Sys2Proof/Decode.lean ====
section
/-! DEFINITION. Decoding (R60 to R66), total on both formats and rejecting a reserved control word by name (R65),
and the encoder, written from the same tables. -/

namespace Sys2Proof

/-- The `OP` column of R63. -/
def OpCode.code : OpCode → BitVec 4
  | .wait => 0x0 | .chk => 0x1 | .pad => 0x2 | .init => 0x3
  | .ldblk => 0x4 | .ldw => 0x5 | .wgen => 0x6 | .wpgen => 0x7
  | .save => 0x8 | .round => 0x9 | .ffwd => 0xA | .nxtb => 0xB
  | .digest => 0xC | .hex => 0xD | .done => 0xE

/-- R63 read the other way; `0xF` is reserved. -/
def OpCode.ofCode (c : BitVec 4) : Option OpCode :=
  match c.toNat with
  | 0x0 => some .wait | 0x1 => some .chk | 0x2 => some .pad | 0x3 => some .init
  | 0x4 => some .ldblk | 0x5 => some .ldw | 0x6 => some .wgen | 0x7 => some .wpgen
  | 0x8 => some .save | 0x9 => some .round | 0xA => some .ffwd | 0xB => some .nxtb
  | 0xC => some .digest | 0xD => some .hex | 0xE => some .done
  | _ => none

/-- The `legal idx` column of R63: least and greatest. -/
def OpCode.idxRange : OpCode → Nat × Nat
  | .ldw => (0, 15)
  | .wgen => (16, 67)
  | .wpgen => (0, 63)
  | .round => (0, 63)
  | .wait | .chk | .pad | .init | .ldblk | .save | .ffwd | .nxtb | .digest | .hex | .done => (0, 0)

/-- `idx` is in the legal range of its operation (R63). -/
def OpCode.legalIdx (op : OpCode) (idx : BitVec 7) : Bool :=
  decide (op.idxRange.1 ≤ idx.toNat) && decide (idx.toNat ≤ op.idxRange.2)

/-- The micro-operation with this operation code and index (R63, R64). -/
def instrOf (op : OpCode) (idx : BitVec 7) : Instr :=
  match op with
  | .wait => .wait | .chk => .chk | .pad => .pad | .init => .init
  | .ldblk => .ldblk | .ldw => .ldw idx | .wgen => .wgen idx | .wpgen => .wpgen idx
  | .save => .save | .round => .round idx | .ffwd => .ffwd | .nxtb => .nxtb
  | .digest => .digest | .hex => .hex | .done => .done

/-- The control word `(OP, idx)`: `OP` in bits 11..8, `Z = 0` in bit 7, `idx` in bits 6..0 (R62). -/
def controlWord (op : OpCode) (idx : BitVec 7) : BitVec 12 :=
  BitVec.ofNat 12 (op.code.toNat * 2 ^ 8 + idx.toNat)

/-- Decoding a control word of format `U` (R62, R63, R65). -/
def decodeU (w : BitVec 12) : Except Reject Instr :=
  match OpCode.ofCode (w.extractLsb' 8 4) with
  | none => .error .reservedOp
  | some op =>
    if w.extractLsb' 7 1 = 1#1 then .error .zSet
    else if op.legalIdx (w.extractLsb' 0 7) then .ok (instrOf op (w.extractLsb' 0 7))
    else .error .idxOutOfRange

/-- Decoding a host command word of format `HC`; every pattern is legal (R60, R61). -/
def decodeHC (w : BitVec 66) : Instr :=
  if w.extractLsb' 65 1 = 1#1 then .computeHex (w.extractLsb' 64 1) (w.extractLsb' 0 64)
  else .compute (w.extractLsb' 64 1) (w.extractLsb' 0 64)

/-- The decoder: total on every code word. -/
def decode : CodeWord → Except Reject Instr
  | .u w => decodeU w
  | .hc w => .ok (decodeHC w)

/-- A host command word: `cmd_op`, `msg_present`, `msg_len` from the top down (R60). -/
def commandWord (op present : BitVec 1) (len : BitVec 64) : BitVec 66 :=
  BitVec.ofNat 66 (op.toNat * 2 ^ 65 + present.toNat * 2 ^ 64 + len.toNat)

/-- The encoder (R60, R62, R63). -/
def encode : Instr → CodeWord
  | .wait => .u (controlWord .wait 0)
  | .chk => .u (controlWord .chk 0)
  | .pad => .u (controlWord .pad 0)
  | .init => .u (controlWord .init 0)
  | .ldblk => .u (controlWord .ldblk 0)
  | .ldw j => .u (controlWord .ldw j)
  | .wgen j => .u (controlWord .wgen j)
  | .wpgen j => .u (controlWord .wpgen j)
  | .save => .u (controlWord .save 0)
  | .round i => .u (controlWord .round i)
  | .ffwd => .u (controlWord .ffwd 0)
  | .nxtb => .u (controlWord .nxtb 0)
  | .digest => .u (controlWord .digest 0)
  | .hex => .u (controlWord .hex 0)
  | .done => .u (controlWord .done 0)
  | .compute p l => .hc (commandWord 0 p l)
  | .computeHex p l => .hc (commandWord 1 p l)

/-- The code word a table row of `nbits` bits (in whole bytes) stands for: 12 bits for format `U`, 66 for `HC`;
none where a bit above the format's width is set (R66: the two formats are fixed-length). -/
def tableWord (nbits w : Nat) : Option CodeWord :=
  if nbits = 12 ∨ nbits = 16 then (if w < 2 ^ 12 then some (.u (BitVec.ofNat 12 w)) else none)
  else if nbits = 66 ∨ nbits = 72 then (if w < 2 ^ 66 then some (.hc (BitVec.ofNat 66 w)) else none)
  else none

/-- What the decoder reads from an opcode-table word (the host's question). -/
def decodeTableWord (nbits w : Nat) : Option Instr :=
  match tableWord nbits w with
  | none => none
  | some c =>
    match decode c with
    | .ok i => some i
    | .error _ => none

end Sys2Proof
end

