-- ==== Sys2Proof/Machine/Bits.lean ====
section
/-! DEFINITION. The primitives of R7, R9 and R10: byte order, rotation and modular addition; and the maps over eight
like things that the rules' `for r in 0 .. 7` loops are. -/

namespace Sys2Proof.Machine

/-- `rotl(x, n)` (R9): bit `b` of `x` becomes bit `(b + n) mod 32`. The rules form `n < 32` only (U13). -/
def rotl (x : Word) (n : Nat) : Word := x.rotateLeft n

/-- `add32(a, b)` (R10): modulo `2^32`, the carry is recorded nowhere. -/
def add32 (a b : Word) : Word := a + b

/-- `add32` of three operands (R10). -/
def add32x3 (a b c : Word) : Word := add32 (add32 a b) c

/-- `add32` of four operands (R10). -/
def add32x4 (a b c d : Word) : Word := add32 (add32x3 a b c) d

/-- `BE32` (R7): the first byte is the most significant. -/
def be32 (b0 b1 b2 b3 : Byte) : Word :=
  BitVec.ofNat 32 (b0.toNat * 2 ^ 24 + b1.toNat * 2 ^ 16 + b2.toNat * 2 ^ 8 + b3.toNat)

/-- `UNBE32` (R7): most significant byte first. -/
def unbe32 (w : Word) : List Byte :=
  [w.extractLsb' 24 8, w.extractLsb' 16 8, w.extractLsb' 8 8, w.extractLsb' 0 8]

/-- `UNBE64` (R7): most significant byte first. -/
def unbe64 (v : BitVec 64) : List Byte :=
  [v.extractLsb' 56 8, v.extractLsb' 48 8, v.extractLsb' 40 8, v.extractLsb' 32 8,
   v.extractLsb' 24 8, v.extractLsb' 16 8, v.extractLsb' 8 8, v.extractLsb' 0 8]

/-- The word of four bytes; the byte order is that of `be32`. A list of another length gives 0 and is never formed:
every caller has read exactly four bytes. -/
def be32List : List Byte → Word
  | [b0, b1, b2, b3] => be32 b0 b1 b2 b3
  | _ => 0

/-- The unsigned number a byte sequence denotes, first byte most significant (R7). -/
def beNat (bs : List Byte) : Nat := bs.foldl (fun v b => v * 256 + b.toNat) 0

/-- `for r in 0 .. 7` over one octet. -/
def octetMap {α β : Type} (f : α → β) (x : Octet α) : Octet β :=
  ⟨f x.a, f x.b, f x.c, f x.d, f x.e, f x.f, f x.g, f x.h⟩

/-- `for r in 0 .. 7` over two octets. -/
def octetZip {α β γ : Type} (f : α → β → γ) (x : Octet α) (y : Octet β) : Octet γ :=
  ⟨f x.a y.a, f x.b y.b, f x.c y.c, f x.d y.d, f x.e y.e, f x.f y.f, f x.g y.g, f x.h y.h⟩

/-- The eight things in the order of `R[0]` to `R[7]` (R20). -/
def octetList {α : Type} (x : Octet α) : List α := [x.a, x.b, x.c, x.d, x.e, x.f, x.g, x.h]

end Sys2Proof.Machine
end

