-- ==== Sys2Proof/Config.lean ====
section
/-! DEFINITION. What an implementation fixes (R5: `IV` and `LMAX` are named configuration fields with the defaults
given) and the model's one free value. -/

namespace Sys2Proof

/-- The configuration fields of R5.
`iv`: the initial vector `IVROM[0..7]` of R23, PRESUMED (general knowledge, G1; log 8).
`lmax`: the exclusive bound on the message length in bytes, open between `2^61` and `2^58` (C2, D11, U1; log 7). -/
structure Config where
  iv : Octet Word :=
    ⟨0x7380166f, 0x4914b2b9, 0x172442d7, 0xda8a0600, 0xa96f30bc, 0x163138aa, 0xe38dee4d, 0xb0fb0e4e⟩
  lmax : Nat := 2 ^ 61
  deriving DecidableEq, Repr

/-- The configuration the machine runs with: the defaults of R5. -/
def Config.used : Config := {}

/-- FREE VALUE: what the 56-bit register `BLK` holds after `NXTB` has counted past `2^56 - 1`. The spec states no
such value (R91: "`BLK` cannot overflow its 56 bits"). DESIGN CHOICE, safe (log 12). -/
opaque Config.blkPastTop : BitVec 56

end Sys2Proof
end

