-- ==== Sys2Proof/Machine/State.lean ====
section
/-! DEFINITION. The state of the SM3 core as plain data (10_state.md, 20_memory.md), its faults and refusals, and the
state right after reset (R33, R160). -/

namespace Sys2Proof.Machine

/-- A register element: what it holds, and whether it holds a value in the sense of R34 (it was written since
reset). Reading takes `value` whatever `held` says (log 1); `held` is what Safety.lean judges a read by. -/
structure Slot (w : Nat) where
  value : BitVec w
  held : Bool
  deriving DecidableEq, Repr

/-- The element right after reset: "no value" (R33). DESIGN CHOICE, unsafe: its bits are 0 (log 1). -/
def Slot.blank (w : Nat) : Slot w := ⟨0, false⟩

/-- Byte-addressed memory as (address, byte) pairs, addresses strictly rising; an unlisted address holds no value
(R34, U4, U8; log 2). -/
abbrev Memory := List Host.Cell

/-- The canonical form: addresses strictly rising. No listed entry can equal what an unlisted address reads as,
since that is no value at all. -/
abbrev Memory.wf (m : Memory) : Prop := m.Pairwise (fun x y => x.1 < y.1)

/-- The five address spaces (R40). -/
inductive Space where
  | msg | pm | blkbuf | dg | hx
  deriving DecidableEq, Repr

/-- `PHASE` (R27, R133): five values, so codes 5 to 7 cannot be represented (U3). -/
inductive Phase where
  | idle | padded | expanded | compressed | finalized
  deriving DecidableEq, Repr

/-- `rsp_status` (R30, R140): three values, so code 3 cannot be represented (U2). -/
inductive Status where
  | ok | nullInput | inputTooLarge
  deriving DecidableEq, Repr

/-- The two architectural errors (R140). -/
inductive HashError where
  | nullInput | inputTooLarge
  deriving DecidableEq, Repr

/-- The input ports (R31): what the host presents at the next step. The core never writes them (log 6). -/
structure Ports where
  rst : BitVec 1
  cmdValid : BitVec 1
  cmdOp : BitVec 1
  msgPresent : BitVec 1
  msgLen : BitVec 64
  deriving DecidableEq, Repr

/-- Why the machine stops. None of them is an architectural error of R140: those are next states. -/
inductive Fault where
  /-- Raised by a micro-operation (`PAD`, `LDBLK`, `LDW`) that reads a byte of the space that holds no value (R34, U4,
  U8), and by the host's read of a response byte that holds none. Safe: the model stops where the spec says fault. -/
  | noValue (sp : Space)
  /-- Raised by a micro-operation (`PAD`, `LDBLK`) or a host write that forms an address outside the space (R40, R49).
  Safe: the spec gives that address no byte (logs 10, 18). -/
  | noSuchAddress (sp : Space)
  /-- Raised by the host's read of `digest` or `hex` at a time R31 gives it no defined value. Safe (log 25). -/
  | noResult
  deriving DecidableEq, Repr

/-- Why the model gives no step. -/
inductive Refusal where
  /-- An arm of `exec` without a meaning. No arm of this model uses it. Safe. -/
  | notModelled (mnemonic : String)
  /-- Raised by the fetch of a reserved control word and by a meaning whose index is out of range (R65, U5). Safe. -/
  | reservedWord
  /-- Raised by a host write to a message byte in use (R168, U7). Unsafe for a host that breaks its duty (log 15). -/
  | messageInUse
  deriving DecidableEq, Repr

/-- Everything the spec gives one core, its message memory and its input ports. -/
structure State where
  /-- `A..H` (R20) -/
  regs : Octet (Slot 32)
  /-- `SAVE[0..7]` (R21) -/
  saved : Octet (Slot 32)
  /-- `XW[0..131]` (R22) -/
  xw : Vector (Slot 32) 132
  /-- `LEN` (R26) -/
  len : Slot 64
  /-- `NBLK` (R26) -/
  nblk : Slot 56
  /-- `BLK` (R26) -/
  blk : Slot 56
  /-- `CMDOP` (R29) -/
  cmdop : Slot 1
  /-- `PRES` (R29) -/
  pres : Slot 1
  /-- `LREG` (R29) -/
  lreg : Slot 64
  /-- `PHASE` (R27) -/
  phase : Phase
  /-- `SEQ` (R28) -/
  seq : BitVec 12
  /-- `rsp_valid` (R30) -/
  rspValid : BitVec 1
  /-- `rsp_status` (R30) -/
  rspStatus : Status
  /-- `MSG`, host-owned (R41) -/
  msg : Memory
  /-- `PM` (R42) -/
  pm : Memory
  /-- `BLKBUF` (R43) -/
  blkbuf : Memory
  /-- `DG` (R44) -/
  dg : Memory
  /-- `HX` (R44) -/
  hx : Memory
  /-- the input ports (R31) -/
  ports : Ports
  deriving DecidableEq, Repr

/-- The input ports of a host that presents nothing. DESIGN CHOICE for the state after reset (log 16). -/
def Ports.idle : Ports := ⟨0, 0, 0, 0, 0⟩

/-- The machine right after reset (R33, R160): `SEQ = (WAIT, 0)`, `PHASE = Idle`, `rsp_valid = 0`,
`rsp_status = 0`; every other register and buffer holds no value (logs 1, 2); `MSG` and the ports are the host's
(log 16). -/
def State.reset : State where
  regs := ⟨.blank 32, .blank 32, .blank 32, .blank 32, .blank 32, .blank 32, .blank 32, .blank 32⟩
  saved := ⟨.blank 32, .blank 32, .blank 32, .blank 32, .blank 32, .blank 32, .blank 32, .blank 32⟩
  xw := Vector.replicate 132 (.blank 32)
  len := .blank 64
  nblk := .blank 56
  blk := .blank 56
  cmdop := .blank 1
  pres := .blank 1
  lreg := .blank 64
  phase := .idle
  seq := 0x000
  rspValid := 0
  rspStatus := .ok
  msg := []
  pm := []
  blkbuf := []
  dg := []
  hx := []
  ports := .idle

end Sys2Proof.Machine
end

