-- ==== Sys2Proof/Machine/Ops.lean ====
section
/-! DEFINITION. The named operations over memory and registers (R8, R20 to R30, R40 to R44), raising an error (R141),
accepting a command (R125) and reset (R160). -/

namespace Sys2Proof.Machine

/-! Memory -/

/-- The byte at an address, none where no byte holds a value (R34). -/
def Memory.read : Memory → Nat → Option Byte
  | [], _ => none
  | (k, b) :: m, a => if k = a then some b else Memory.read m a

/-- One byte written in place, the canonical form kept. -/
def Memory.write : Memory → Nat → Byte → Memory
  | [], a, b => [(a, b)]
  | (k, c) :: m, a, b =>
    if a < k then (a, b) :: (k, c) :: m
    else if a = k then (a, b) :: m
    else (k, c) :: Memory.write m a b

/-- Bytes written from an address upward, lowest address first (`MemWrite` of R8). -/
def Memory.writeBytes : Memory → Nat → List Byte → Memory
  | m, _, [] => m
  | m, a, b :: bs => Memory.writeBytes (m.write a b) (a + 1) bs

/-- The `n` bytes from an address upward, none where one of them holds no value. -/
def Memory.readBytes (m : Memory) : Nat → Nat → Option (List Byte)
  | _, 0 => some []
  | a, n + 1 =>
    match m.read a with
    | none => none
    | some b =>
      match Memory.readBytes m (a + 1) n with
      | none => none
      | some bs => some (b :: bs)

/-- The contents of a space (R40). -/
def State.space (s : State) : Space → Memory
  | .msg => s.msg
  | .pm => s.pm
  | .blkbuf => s.blkbuf
  | .dg => s.dg
  | .hx => s.hx

/-- The size of a space in bytes (R40); `MSG` can be as long as the longest message, `LMAX - 1` bytes. -/
def State.size (s : State) : Space → Nat
  | .msg => Config.used.lmax - 1
  | .pm => 64 * s.nblk.value.toNat
  | .blkbuf => 64
  | .dg => 32
  | .hx => 64

/-- `MemRead(S, a, n)` (R8): the bytes at `a .. a+n-1`, lowest address first; an address outside the space and a byte
that holds no value fault (R34, R40). -/
def memRead (s : State) (sp : Space) (a n : Nat) : Except Fault (List Byte) :=
  if a + n ≤ s.size sp then
    match (s.space sp).readBytes a n with
    | some bs => .ok bs
    | none => .error (.noValue sp)
  else .error (.noSuchAddress sp)

/-! Registers -/

/-- A written register element: it holds this value (R34). -/
def Slot.hold {w : Nat} (v : BitVec w) : Slot w := ⟨v, true⟩

/-- The words of `A..H` (R20). -/
def State.regWords (s : State) : Octet Word := octetMap Slot.value s.regs

/-- The words of `SAVE[0..7]` (R21). -/
def State.savedWords (s : State) : Octet Word := octetMap Slot.value s.saved

/-- The word `XW[k]` (R22). -/
def State.xwWord (s : State) (k : Fin 132) : Word := s.xw[k].value

/-- `SEQ <- (OP, idx)` given as a control word (R8, R28). -/
def State.withSeq (s : State) (w : BitVec 12) : State := { s with seq := w }

/-- `A..H` written together (R8). -/
def State.withRegs (s : State) (v : Octet Word) : State := { s with regs := octetMap Slot.hold v }

/-- `SAVE[0..7]` written together (R21). -/
def State.withSaved (s : State) (v : Octet Word) : State := { s with saved := octetMap Slot.hold v }

/-- `XW[k] <- v` (R22). -/
def State.withXw (s : State) (k : Fin 132) (v : Word) : State := { s with xw := s.xw.set k (Slot.hold v) }

/-- `LEN` and `NBLK` written together (R26). -/
def State.withLengths (s : State) (len : BitVec 64) (nblk : BitVec 56) : State :=
  { s with len := Slot.hold len, nblk := Slot.hold nblk }

/-- `BLK <- v` (R26). -/
def State.withBlk (s : State) (v : BitVec 56) : State := { s with blk := Slot.hold v }

/-- The command latch `CMDOP`, `PRES`, `LREG` (R29). -/
def State.withLatch (s : State) (op present : BitVec 1) (len : BitVec 64) : State :=
  { s with cmdop := Slot.hold op, pres := Slot.hold present, lreg := Slot.hold len }

/-- `PHASE <- p` (R27). -/
def State.withPhase (s : State) (p : Phase) : State := { s with phase := p }

/-- `rsp_valid <- v` (R30). -/
def State.withRspValid (s : State) (v : BitVec 1) : State := { s with rspValid := v }

/-- `rsp_status <- st` (R30). -/
def State.withRspStatus (s : State) (st : Status) : State := { s with rspStatus := st }

/-- New contents of `MSG` (R41). -/
def State.withMsg (s : State) (m : Memory) : State := { s with msg := m }

/-- New contents of `PM` (R42). -/
def State.withPm (s : State) (m : Memory) : State := { s with pm := m }

/-- New contents of `BLKBUF` (R43). -/
def State.withBlkbuf (s : State) (m : Memory) : State := { s with blkbuf := m }

/-- New contents of `DG` (R44). -/
def State.withDg (s : State) (m : Memory) : State := { s with dg := m }

/-- New contents of `HX` (R44). -/
def State.withHx (s : State) (m : Memory) : State := { s with hx := m }

/-- What the host presents (R31). -/
def State.withPorts (s : State) (p : Ports) : State := { s with ports := p }

/-! Errors, acceptance, reset -/

/-- The response code of an error (R140). -/
def HashError.status : HashError → Status
  | .nullInput => .nullInput
  | .inputTooLarge => .inputTooLarge

/-- `raise <Error>` (R141): the response, and the sequencer back at `WAIT`; nothing else changes. There is no saved
position, no handler and no return from it (R145): the next command is accepted like any other. -/
def raise (e : HashError) (s : State) : State :=
  ((s.withRspStatus e.status).withRspValid 1).withSeq (controlWord .wait 0)

/-- A command word is accepted (R125): the latch is written, `rsp_valid` cleared, the previous result discarded
(`DG` and `HX` hold no value), `PHASE` set to `Idle`, and `CHK` is next. -/
def accept (op present : BitVec 1) (len : BitVec 64) (s : State) : State :=
  ((((((s.withLatch op present len).withRspValid 0).withPhase .idle).withDg []).withHx [])).withSeq
    (controlWord .chk 0)

/-- `rst` (R160, R161): every piece of the core's state as after reset; `MSG` and the input ports are the host's and
are untouched (log 16). -/
def applyReset (s : State) : State := { State.reset with msg := s.msg, ports := s.ports }

end Sys2Proof.Machine
end

