-- ==== Sys2Proof/Machine/Flags.lean ====
section
/-! DEFINITION. The flags (R30). There are no condition codes; the flags are the response flags `rsp_valid` and
`rsp_status`, and the derived output `cmd_ready`. -/

namespace Sys2Proof.Machine

/-- `cmd_ready` is 1 exactly when `SEQ[11:8] = WAIT` (R30; log 17). -/
def cmdReady (s : State) : BitVec 1 :=
  if s.seq.extractLsb' 8 4 = OpCode.wait.code then 1 else 0

/-- `rsp_status` as its 2-bit code (R30, R140). -/
def Status.code : Status → BitVec 2
  | .ok => 0
  | .nullInput => 1
  | .inputTooLarge => 2

/-- `PHASE` as its 3-bit code (R27). -/
def Phase.code : Phase → BitVec 3
  | .idle => 0
  | .padded => 1
  | .expanded => 2
  | .compressed => 3
  | .finalized => 4

end Sys2Proof.Machine
end

