-- ==== Sys2Proof/Machine/Boundary.lean ====
section
/-! DEFINITION. The boundary micro-operations (45_sequencer_and_host.md, section 1): `WAIT`, `CHK`, `INIT`, `DONE`. -/

namespace Sys2Proof.Machine

/-- `WAIT` (R125): with `cmd_valid = 1` the command on the ports is accepted, else the sequencer holds and nothing
changes. -/
def execWait (s : State) : Host.Outcome State Fault Refusal :=
  if s.ports.cmdValid = 1#1 then .next (accept s.ports.cmdOp s.ports.msgPresent s.ports.msgLen s)
  else .next s

/-- The two tests of `CHK` in their order, for a given bound (R126, R142 to R144; the bound is open, U1). -/
def checkInput (lmax : Nat) (present : BitVec 1) (len : BitVec 64) : Option HashError :=
  if present = 0#1 then some .nullInput
  else if lmax ≤ len.toNat then some .inputTooLarge
  else none

/-- `CHK` (R126). -/
def execChk (s : State) : Host.Outcome State Fault Refusal :=
  match checkInput Config.used.lmax s.pres.value s.lreg.value with
  | some e => .next (raise e s)
  | none => .next (s.withSeq (controlWord .pad 0))

/-- `INIT` (R127). -/
def execInit (s : State) : Host.Outcome State Fault Refusal :=
  .next (((s.withRegs Config.used.iv).withBlk 0).withSeq (controlWord .ldblk 0))

/-- `DONE` (R128). -/
def execDone (s : State) : Host.Outcome State Fault Refusal :=
  .next (((s.withRspStatus .ok).withRspValid 1).withSeq (controlWord .wait 0))

end Sys2Proof.Machine
end

