-- ==== Sys2Proof/Machine/Command.lean ====
section
/-! DEFINITION. The host commands `COMPUTE` and `COMPUTE_HEX` (R129, R130, R135). A command is accepted in one step and
sets the sequencer off; its run is the micro-operations that follow (R131, R136; log 3). -/

namespace Sys2Proof.Machine

/-- A command presented by the host: accepted while `cmd_ready = 1`, without any effect while the core is busy
(R125, R135, U6; log 14). -/
def command (op present : BitVec 1) (len : BitVec 64) (s : State) : State :=
  if cmdReady s = 1#1 then accept op present len s else s

/-- `COMPUTE` (R129). -/
def execCompute (present : BitVec 1) (len : BitVec 64) (s : State) : Host.Outcome State Fault Refusal :=
  .next (command 0 present len s)

/-- `COMPUTE_HEX` (R130). -/
def execComputeHex (present : BitVec 1) (len : BitVec 64) (s : State) : Host.Outcome State Fault Refusal :=
  .next (command 1 present len s)

end Sys2Proof.Machine
end

