-- ==== Sys2Proof/Machine/Operands.lean ====
section
/-! DEFINITION. Operand assembly (R61, R64): what the rules form from an index operand, and the elements of `XW` an
index names (R22). -/

namespace Sys2Proof.Machine

/-- `W[j]` is `XW[j]` for `j = 0 .. 67` (R22). -/
def wSlot (j : Nat) (h : j ≤ 67) : Fin 132 := ⟨j, by omega⟩

/-- `W'[j]` is `XW[68 + j]` for `j = 0 .. 63` (R22). -/
def wpSlot (j : Nat) (h : j ≤ 63) : Fin 132 := ⟨68 + j, by omega⟩

/-- The byte address `4 * idx` of `LDW` (R64). -/
def ldwAddress (j : BitVec 7) : Nat := 4 * j.toNat

/-- The byte address `64 * BLK` of `LDBLK` (R46, R90). -/
def blockAddress (s : State) : Nat := 64 * s.blk.value.toNat

/-- The rotation amount `idx mod 32` of `ROUND` (R64). -/
def rotAmount (i : Nat) : Nat := i % 32

/-- The successor of an indexed micro-operation: the same operation at `idx + 1` below its last index, else the first
word of the next group (R132). -/
def nextIndexed (op : OpCode) (idx : BitVec 7) (last : Nat) (after : BitVec 12) : BitVec 12 :=
  if idx.toNat < last then controlWord op (idx + 1) else after

end Sys2Proof.Machine
end

