-- ==== Sys2Proof/Machine/Compression.lean ====
section
/-! DEFINITION. The Compression Function (43_compression.md): `T`, `TROM`, `FF`, `GG`, `P0`, `SAVE`, `ROUND`,
`FFWD`. -/

namespace Sys2Proof.Machine

/-- `T(i)` (R24, R100). -/
def roundConstant (i : Nat) : Word := if i < 16 then 0x79cc4519 else 0x7a879d8a

/-- `TROM[i] = rotl(T(i), i mod 32)` (R25). -/
def trom (i : Nat) : Word := rotl (roundConstant i) (rotAmount i)

/-- `FF(X, Y, Z, i)` (R101): xor below round 16, bitwise majority from it on. -/
def ff (x y z : Word) (i : Nat) : Word :=
  if i < 16 then x ^^^ y ^^^ z else (x &&& y) ||| (x &&& z) ||| (y &&& z)

/-- `GG(X, Y, Z, i)` (R102): xor below round 16, bitwise choose from it on. -/
def gg (x y z : Word) (i : Nat) : Word :=
  if i < 16 then x ^^^ y ^^^ z else (x &&& y) ||| (~~~x &&& z)

/-- `P0(x) = x xor rotl(x, 9) xor rotl(x, 17)` (R103). -/
def p0 (x : Word) : Word := x ^^^ rotl x 9 ^^^ rotl x 17

/-- `SS1` of round `i` (R105). -/
def ss1 (r : Octet Word) (i : Nat) : Word := rotl (add32x3 (rotl r.a 12) r.e (trom i)) 7

/-- `SS2` of round `i` (R105). -/
def ss2 (r : Octet Word) (i : Nat) : Word := ss1 r i ^^^ rotl r.a 12

/-- `TT1` of round `i`, taking `W'[i]` (R105). -/
def tt1 (r : Octet Word) (i : Nat) (wp : Word) : Word := add32x4 (ff r.a r.b r.c i) r.d (ss2 r i) wp

/-- `TT2` of round `i`, taking `W[i]` (R105). -/
def tt2 (r : Octet Word) (i : Nat) (w : Word) : Word := add32x4 (gg r.e r.f r.g i) r.h (ss1 r i) w

/-- The eight registers after round `i`, all formed from the eight before it (R105, R166). -/
def roundRegs (r : Octet Word) (i : Nat) (w wp : Word) : Octet Word :=
  { a := tt1 r i wp, b := r.a, c := rotl r.b 9, d := r.c,
    e := p0 (tt2 r i w), f := r.e, g := rotl r.f 19, h := r.g }

/-- `SAVE` (R104). -/
def execSave (s : State) : Host.Outcome State Fault Refusal :=
  .next ((s.withSaved s.regWords).withSeq (controlWord .round 0))

/-- `ROUND i` (R105). -/
def execRound (i : BitVec 7) (s : State) : Host.Outcome State Fault Refusal :=
  if h : i.toNat ≤ 63 then
    .next ((s.withRegs (roundRegs s.regWords i.toNat (s.xwWord (wSlot i.toNat (by omega)))
      (s.xwWord (wpSlot i.toNat h)))).withSeq (nextIndexed .round i 63 (controlWord .ffwd 0)))
  else .refused .reservedWord

/-- The feed-forward: `R[r] xor SAVE[r]` for `r = 0 .. 7` (R106). -/
def feedForward (r v : Octet Word) : Octet Word := octetZip (· ^^^ ·) r v

/-- `FFWD` (R106). -/
def execFfwd (s : State) : Host.Outcome State Fault Refusal :=
  .next (((s.withRegs (feedForward s.regWords s.savedWords)).withPhase .compressed).withSeq (controlWord .nxtb 0))

end Sys2Proof.Machine
end

