-- ==== Sys2Proof/Machine/DigestAssembler.lean ====
section
/-! DEFINITION. The Digest Assembler (44_digest_assembler.md): `DIGEST`, `HEX`, `hexchar`. -/

namespace Sys2Proof.Machine

/-- The 32 digest bytes: each register as four bytes, most significant first, `A` first (R115). -/
def digestBytes (r : Octet Word) : List Byte := (octetList r).flatMap unbe32

/-- `hexchar(n)`: the ASCII code of the lowercase hexadecimal digit (R116; PRESUMED, log 9). -/
def hexchar (n : BitVec 4) : Byte :=
  if n.toNat ≤ 9 then BitVec.ofNat 8 (0x30 + n.toNat) else BitVec.ofNat 8 (0x61 + (n.toNat - 10))

/-- The eight characters of one register, most significant nibble first, zeros kept (R117). -/
def hexWord (w : Word) : List Byte :=
  (List.range 8).map fun d => hexchar (w.extractLsb' (28 - 4 * d) 4)

/-- The 64 characters of the hexadecimal view (R117). -/
def hexBytes (r : Octet Word) : List Byte := (octetList r).flatMap hexWord

/-- `DIGEST` (R115). -/
def execDigest (s : State) : Host.Outcome State Fault Refusal :=
  .next (((s.withDg (s.dg.writeBytes 0 (digestBytes s.regWords))).withPhase .finalized).withSeq
    (if s.cmdop.value = 1#1 then controlWord .hex 0 else controlWord .done 0))

/-- `HEX` (R117). -/
def execHex (s : State) : Host.Outcome State Fault Refusal :=
  .next ((s.withHx (s.hx.writeBytes 0 (hexBytes s.regWords))).withSeq (controlWord .done 0))

end Sys2Proof.Machine
end

