-- ==== Sys2Proof/Machine/Expander.lean ====
section
/-! DEFINITION. The Message Expander (42_message_expander.md): `P1`, `LDW`, `WGEN`, `WPGEN`. -/

namespace Sys2Proof.Machine

/-- `P1(x) = x xor rotl(x, 15) xor rotl(x, 23)` (R94). -/
def p1 (x : Word) : Word := x ^^^ rotl x 15 ^^^ rotl x 23

/-- The word `WGEN j` computes from `W[j-16]`, `W[j-9]`, `W[j-3]`, `W[j-13]`, `W[j-6]` (R96). -/
def wgenWord (w16 w9 w3 w13 w6 : Word) : Word :=
  p1 (w16 ^^^ w9 ^^^ rotl w3 15) ^^^ rotl w13 7 ^^^ w6

/-- `LDW j` (R95). -/
def execLdw (j : BitVec 7) (s : State) : Host.Outcome State Fault Refusal :=
  if h : j.toNat ≤ 15 then
    match memRead s .blkbuf (ldwAddress j) 4 with
    | .error f => .fault f
    | .ok bs =>
      .next ((s.withXw (wSlot j.toNat (by omega)) (be32List bs)).withSeq
        (nextIndexed .ldw j 15 (controlWord .wgen 16)))
  else .refused .reservedWord

/-- `WGEN j` (R96). -/
def execWgen (j : BitVec 7) (s : State) : Host.Outcome State Fault Refusal :=
  if h : 16 ≤ j.toNat ∧ j.toNat ≤ 67 then
    .next ((s.withXw (wSlot j.toNat h.2)
      (wgenWord (s.xwWord (wSlot (j.toNat - 16) (by omega))) (s.xwWord (wSlot (j.toNat - 9) (by omega)))
        (s.xwWord (wSlot (j.toNat - 3) (by omega))) (s.xwWord (wSlot (j.toNat - 13) (by omega)))
        (s.xwWord (wSlot (j.toNat - 6) (by omega))))).withSeq
      (nextIndexed .wgen j 67 (controlWord .wpgen 0)))
  else .refused .reservedWord

/-- `WPGEN j` (R97); `PHASE` becomes `Expanded` with the last one. -/
def execWpgen (j : BitVec 7) (s : State) : Host.Outcome State Fault Refusal :=
  if h : j.toNat ≤ 63 then
    .next (((s.withXw (wpSlot j.toNat h)
      (s.xwWord (wSlot j.toNat (by omega)) ^^^ s.xwWord (wSlot (j.toNat + 4) (by omega)))).withPhase
        (if j.toNat = 63 then .expanded else s.phase)).withSeq
      (nextIndexed .wpgen j 63 (controlWord .save 0)))
  else .refused .reservedWord

end Sys2Proof.Machine
end

