-- ==== Sys2Proof/Machine/Padder.lean ====
section
/-! DEFINITION. The Padder (40_padder.md): `PAD`. -/

namespace Sys2Proof.Machine

/-- `NBLK` of a message of `l` bytes (R80). -/
def blockCount (l : Nat) : Nat := (l + 8) / 64 + 1

/-- The number `z` of zero bytes between `0x80` and the length field (R80). -/
def zeroCount (l : Nat) : Nat := 64 * blockCount l - l - 9

/-- The PaddedMessage (R80): the message, `0x80`, `z` zero bytes, the bit length in eight bytes. -/
def paddedBytes (m : List Byte) : List Byte :=
  m ++ 0x80#8 :: (List.replicate (zeroCount m.length) 0#8 ++ unbe64 (BitVec.ofNat 64 (m.length * 8)))

/-- `PAD` (R82). The whole of `PM` is written (log 11); a byte of `MSG[0 .. L-1]` that holds no value faults (U8), and
so does a length no message can have (log 10). -/
def execPad (s : State) : Host.Outcome State Fault Refusal :=
  match memRead s .msg 0 s.lreg.value.toNat with
  | .error f => .fault f
  | .ok m =>
    .next ((((s.withLengths (BitVec.ofNat 64 (m.length * 8)) (BitVec.ofNat 56 (blockCount m.length))).withPm
      (Memory.writeBytes [] 0 (paddedBytes m))).withPhase .padded).withSeq (controlWord .init 0))

end Sys2Proof.Machine
end

