-- ==== Sys2Proof/Machine/Splitter.lean ====
section
/-! DEFINITION. The Block Splitter (41_block_splitter.md): `LDBLK`, `NXTB`. -/

namespace Sys2Proof.Machine

/-- `LDBLK` (R90): block `BLK` of `PM` into `BLKBUF`, byte for byte. -/
def execLdblk (s : State) : Host.Outcome State Fault Refusal :=
  match memRead s .pm (blockAddress s) 64 with
  | .error f => .fault f
  | .ok bs => .next ((s.withBlkbuf (s.blkbuf.writeBytes 0 bs)).withSeq (controlWord .ldw 0))

/-- `BLK + 1` in the 56-bit register; past `2^56 - 1` the spec states no value (log 12). -/
def nextBlk (blk : BitVec 56) : BitVec 56 :=
  if blk.toNat + 1 < 2 ^ 56 then blk + 1 else Config.blkPastTop

/-- `NXTB` (R91): the comparison `BLK + 1 = NBLK` is exact. -/
def execNxtb (s : State) : Host.Outcome State Fault Refusal :=
  .next ((s.withBlk (nextBlk s.blk.value)).withSeq
    (if s.blk.value.toNat + 1 = s.nblk.value.toNat then controlWord .digest 0 else controlWord .ldblk 0))

end Sys2Proof.Machine
end

