-- ==== Sys2Proof/Machine/Dispatch.lean ====
section
/-! DEFINITION. One arm per instruction, each one call of its meaning. -/

namespace Sys2Proof.Machine

def exec (i : Instr) (s : State) : Host.Outcome State Fault Refusal :=
  match i with
  | .wait => Sys2Proof.Machine.execWait s
  | .chk => Sys2Proof.Machine.execChk s
  | .pad => Sys2Proof.Machine.execPad s
  | .init => Sys2Proof.Machine.execInit s
  | .ldblk => Sys2Proof.Machine.execLdblk s
  | .ldw j => Sys2Proof.Machine.execLdw j s
  | .wgen j => Sys2Proof.Machine.execWgen j s
  | .wpgen j => Sys2Proof.Machine.execWpgen j s
  | .save => Sys2Proof.Machine.execSave s
  | .round idx => Sys2Proof.Machine.execRound idx s
  | .ffwd => Sys2Proof.Machine.execFfwd s
  | .nxtb => Sys2Proof.Machine.execNxtb s
  | .digest => Sys2Proof.Machine.execDigest s
  | .hex => Sys2Proof.Machine.execHex s
  | .done => Sys2Proof.Machine.execDone s
  | .compute present len => Sys2Proof.Machine.execCompute present len s
  | .computeHex present len => Sys2Proof.Machine.execComputeHex present len s

end Sys2Proof.Machine
end

