-- ==== Sys2Proof/Machine/Fetch.lean ====
section
/-! DEFINITION. What the machine runs next (R28, R53, R60, R125): the control word in `SEQ`, or, where that is `WAIT`
and the host presents a command, the host command word on the ports. Nothing is fetched from a memory. -/

namespace Sys2Proof.Machine

/-- The host command word on the input ports (R60). -/
def portWord (s : State) : BitVec 66 := commandWord s.ports.cmdOp s.ports.msgPresent s.ports.msgLen

/-- The code word the machine runs next (log 4). -/
def nextWord (s : State) : CodeWord :=
  if s.seq = controlWord .wait 0 ∧ s.ports.cmdValid = 1#1 then .hc (portWord s) else .u s.seq

/-- The instruction the machine runs next; a reserved control word is refused (R65, U5). -/
def fetch (s : State) : Except Refusal Instr :=
  match decode (nextWord s) with
  | .ok i => .ok i
  | .error _ => .error .reservedWord

/-- The state with a code word placed where the machine finds its next instruction: a control word in `SEQ` with no
command presented, a host command word on the ports with the sequencer at `WAIT`; `rst` is not asserted (log 5). -/
def placeWord (s : State) : CodeWord → State
  | .u w => (s.withSeq w).withPorts { s.ports with rst := 0, cmdValid := 0 }
  | .hc w =>
    (s.withSeq (controlWord .wait 0)).withPorts
      { rst := 0, cmdValid := 1, cmdOp := w.extractLsb' 65 1, msgPresent := w.extractLsb' 64 1,
        msgLen := w.extractLsb' 0 64 }

end Sys2Proof.Machine
end

