-- ==== Sys2Proof/Machine/Step.lean ====
section
/-! DEFINITION. One step of the core: `rst` first (R161), then the next instruction (R28, R125). -/

namespace Sys2Proof.Machine

/-- One step (R4, R171): reset wins (R161, log 24); else the fetched instruction runs. -/
def step (s : State) : Host.Outcome State Fault Refusal :=
  if s.ports.rst = 1#1 then .next (applyReset s)
  else
    match fetch s with
    | .error r => .refused r
    | .ok i => exec i s

/-- `s` with the instruction of an opcode-table word as its next instruction; unchanged where the table has no such
word. -/
def State.withFetchWord (s : State) (nbits w : Nat) : State :=
  match tableWord nbits w with
  | none => s
  | some c => placeWord s c

end Sys2Proof.Machine
end

