-- ==== Sys2Proof/Machine/Reference.lean ====
section
/-! DEFINITION. The function `SM3(m)` of R129 on byte sequences, apart from any state, register file or sequencer: what
a run of the machine is held against. -/

namespace Sys2Proof.Machine

/-- `PadByte(a)` (R81) of the message `m`, address by address. -/
def padByte (m : List Byte) (a : Nat) : Byte :=
  if a < m.length then m.getD a 0
  else if a = m.length then 0x80
  else if a < 64 * blockCount m.length - 8 then 0x00
  else (unbe64 (BitVec.ofNat 64 (m.length * 8))).getD (a - (64 * blockCount m.length - 8)) 0

/-- Block `k` of the PaddedMessage: `PM[64k .. 64k+63]` (R43). -/
def refBlock (m : List Byte) (k : Nat) : List Byte := (List.range 64).map fun t => padByte m (64 * k + t)

/-- The first `n` words `W[0 .. n-1]` of a block: sixteen native words, then each from strictly earlier ones
(R95, R96, R98). -/
def refW (blk : List Byte) : Nat → List Word
  | 0 => []
  | n + 1 =>
    let ws := refW blk n
    ws ++ [if n < 16 then
        be32 (blk.getD (4 * n) 0) (blk.getD (4 * n + 1) 0) (blk.getD (4 * n + 2) 0) (blk.getD (4 * n + 3) 0)
      else
        wgenWord (ws.getD (n - 16) 0) (ws.getD (n - 9) 0) (ws.getD (n - 3) 0) (ws.getD (n - 13) 0)
          (ws.getD (n - 6) 0)]

/-- `Expand` (R129): the 68 words `W` and the 64 words `W'[j] = W[j] xor W[j+4]` (R97). -/
def refExpand (blk : List Byte) : List Word :=
  let ws := refW blk 68
  ws ++ (List.range 64).map fun j => ws.getD j 0 ^^^ ws.getD (j + 4) 0

/-- The registers after rounds `0 .. n-1` on the expanded words `x` (R105). -/
def refRounds (x : List Word) (v : Octet Word) : Nat → Octet Word
  | 0 => v
  | n + 1 => roundRegs (refRounds x v n) n (x.getD n 0) (x.getD (68 + n) 0)

/-- `CF(V, X)` (R129): 64 rounds and the feed-forward. -/
def refCf (v : Octet Word) (x : List Word) : Octet Word := feedForward (refRounds x v 64) v

/-- `V(k)`: the chaining value before block `k` (R129, R108). -/
def refChain (iv : Octet Word) (m : List Byte) : Nat → Octet Word
  | 0 => iv
  | k + 1 => refCf (refChain iv m k) (refExpand (refBlock m k))

/-- `V(n)` of a message, `n` its number of blocks. -/
def refFinal (iv : Octet Word) (m : List Byte) : Octet Word := refChain iv m (blockCount m.length)

/-- `SM3(m)`, 32 bytes (R129). -/
def sm3 (iv : Octet Word) (m : List Byte) : List Byte := digestBytes (refFinal iv m)

/-- The 64 characters of `computeHex(m)` (R118, R130): two for each byte of `SM3(m)`, high nibble first. -/
def sm3Hex (iv : Octet Word) (m : List Byte) : List Byte :=
  (sm3 iv m).flatMap fun b => [hexchar (b.extractLsb' 4 4), hexchar (b.extractLsb' 0 4)]

end Sys2Proof.Machine
end

