-- ==== Sys2Proof/Machine/HostPort.lean ====
section
/-! DEFINITION. The host's side of the interface: what it reads on the output ports (R31) and the moves it has (R135,
R162). The core's own outputs `rsp_valid`, `rsp_status`, `phase` are fields of the state, `cmd_ready` is in Flags. -/

namespace Sys2Proof.Machine

/-- The `rsp_status` port (R30, R31); exposed as it is, without meaning while `rsp_valid = 0` (U10). -/
def statusPort (s : State) : BitVec 2 := s.rspStatus.code

/-- The `phase` port (R27, R31). -/
def phasePort (s : State) : BitVec 3 := s.phase.code

/-- The `digest` port (R31): `DG[0]` in bits 255..248; a defined value only while `rsp_valid = 1` and
`rsp_status = OK`, at any other time a fault (U4; log 25). -/
def digestPort (s : State) : Except Fault (BitVec 256) :=
  if s.rspValid = 1#1 ∧ s.rspStatus = .ok then
    match memRead s .dg 0 32 with
    | .ok bs => .ok (BitVec.ofNat 256 (beNat bs))
    | .error f => .error f
  else .error .noResult

/-- The `hex` port (R31): `HX[0]` in bits 511..504; a defined value only while, in addition, the command was
`COMPUTE_HEX` (U4; log 25). -/
def hexPort (s : State) : Except Fault (BitVec 512) :=
  if s.rspValid = 1#1 ∧ s.rspStatus = .ok ∧ s.cmdop.value = 1#1 then
    match memRead s .hx 0 64 with
    | .ok bs => .ok (BitVec.ofNat 512 (beNat bs))
    | .error f => .error f
  else .error .noResult

/-- The moves R135 gives the host, besides reading the output ports. -/
inductive HostMove where
  /-- `rst` driven to a level (R161) -/
  | driveRst (v : BitVec 1)
  /-- one byte of the message written into `MSG` (prepare) -/
  | writeMsg (a : Nat) (b : Byte)
  /-- a command presented: `cmd_valid = 1` with the command word -/
  | present (op present : BitVec 1) (len : BitVec 64)
  /-- the command withdrawn: `cmd_valid = 0` -/
  | withdraw
  deriving DecidableEq, Repr

/-- How many bytes of `MSG`, from address 0, the host must leave as they are (R135, R168): the latched length during
a run on a message, the presented length while a command with a message is presented. -/
def messageInUse (s : State) : Nat :=
  if cmdReady s = 0#1 then (if s.pres.value = 1#1 then s.lreg.value.toNat else 0)
  else if s.ports.cmdValid = 1#1 ∧ s.ports.msgPresent = 1#1 then s.ports.msgLen.toNat
  else 0

/-- A host move. Writing a message byte in use is no move the host has (U7, log 15); a command may be presented at any
time and is not looked at while the core is busy (U6, log 14). -/
def hostMove (m : HostMove) (s : State) : Host.Outcome State Fault Refusal :=
  match m with
  | .driveRst v => .next (s.withPorts { s.ports with rst := v })
  | .writeMsg a b =>
    if a < messageInUse s then .refused .messageInUse
    else if a < s.size .msg then .next (s.withMsg (s.msg.write a b))
    else .fault (.noSuchAddress .msg)
  | .present op p l =>
    .next (s.withPorts { s.ports with cmdValid := 1, cmdOp := op, msgPresent := p, msgLen := l })
  | .withdraw => .next (s.withPorts { s.ports with cmdValid := 0 })

/-- A move of either agent (R4): a step of the sequencer or a host move. -/
inductive Move where
  | core
  | host (m : HostMove)
  deriving DecidableEq, Repr

/-- One move of the two-agent system. -/
def move (m : Move) (s : State) : Host.Outcome State Fault Refusal :=
  match m with
  | .core => step s
  | .host h => hostMove h s

/-- Moves of the two agents in the order given, stopping at the first that gives no next state. -/
def moves : List Move → State → Host.Outcome State Fault Refusal
  | [], s => .next s
  | m :: ms, s =>
    match move m s with
    | .next t => moves ms t
    | .fault f => .fault f
    | .refused r => .refused r

end Sys2Proof.Machine
end

