-- ==== Sys2Proof/Machine/Run.lean ====
section
/-! DEFINITION. Several steps of the core, the host's inputs given step by step (R31: a port is a value the host presents
at a step; R136: a run), and the microprogram as listings (R68, R131). -/

namespace Sys2Proof.Machine

/-- One step for each entry: the entry is what the host presents on the input ports at that step (R31, log 6). -/
def runInputs : List Ports → State → Host.Outcome State Fault Refusal
  | [], s => .next s
  | p :: ps, s =>
    match step (s.withPorts p) with
    | .next t => runInputs ps t
    | .fault f => .fault f
    | .refused r => .refused r

/-- The instruction a step runs, none where the step is a reset or a refusal. -/
def executed (s : State) : Option Instr :=
  if s.ports.rst = 1#1 then none
  else
    match fetch s with
    | .ok i => some i
    | .error _ => none

/-- The instructions the steps run, in order, up to the first step that gives no next state. -/
def trace : List Ports → State → List (Option Instr)
  | [], _ => []
  | p :: ps, s =>
    executed (s.withPorts p) ::
      (match step (s.withPorts p) with
       | .next t => trace ps t
       | .fault _ => []
       | .refused _ => [])

/-- `PHASE` after each step, in order (R133). -/
def phases : List Ports → State → List Phase
  | [], _ => []
  | p :: ps, s =>
    match step (s.withPorts p) with
    | .next t => t.phase :: phases ps t
    | .fault _ => []
    | .refused _ => []

/-! The pseudo-operations of R68. -/

/-- `EXPAND`: 132 micro-operations. -/
def expandOps : List Instr :=
  (List.range 16).map (fun j => .ldw (BitVec.ofNat 7 j)) ++
  (List.range 52).map (fun j => .wgen (BitVec.ofNat 7 (16 + j))) ++
  (List.range 64).map (fun j => .wpgen (BitVec.ofNat 7 j))

/-- `COMPRESS`: 66 micro-operations. -/
def compressOps : List Instr :=
  .save :: (List.range 64).map (fun i => .round (BitVec.ofNat 7 i)) ++ [.ffwd]

/-- `BLOCK`: 200 micro-operations. -/
def blockOps : List Instr := .ldblk :: expandOps ++ compressOps ++ [.nxtb]

/-- `BLOCK` repeated `n` times. -/
def blocksOps : Nat → List Instr
  | 0 => []
  | n + 1 => blockOps ++ blocksOps n

/-- `HASH` of a message of `n` blocks: `COMPUTE` without error. -/
def hashOps (n : Nat) : List Instr := [.chk, .pad, .init] ++ blocksOps n ++ [.digest, .done]

/-- `HASHX` of a message of `n` blocks: `COMPUTE_HEX` without error. -/
def hashxOps (n : Nat) : List Instr := [.chk, .pad, .init] ++ blocksOps n ++ [.digest, .hex, .done]

end Sys2Proof.Machine
end

