-- ==== Sys2Proof/Safety.lean ====
section
/-! DEFINITION. What a good state and a safe step are, in the terms the statements use: canonical memories inside their
spaces (R40), a legal control word in `SEQ` (R65, R132), `PHASE` in step with `SEQ` (R133), and every element written
before it is read (R34). -/

namespace Sys2Proof.Machine

/-! Memory -/

/-- Every listed address is below `n`. -/
def Memory.below (n : Nat) (m : Memory) : Prop := ∀ c ∈ m, c.1 < n

/-- Every address below `n` holds a value. -/
def Memory.full (n : Nat) (m : Memory) : Prop := ∀ a, a < n → (m.read a).isSome = true

/-- All five memories are in canonical form. -/
def Canonical (s : State) : Prop := s.msg.wf ∧ s.pm.wf ∧ s.blkbuf.wf ∧ s.dg.wf ∧ s.hx.wf

/-- The five spaces list no address outside their sizes (R40). -/
def InSpaces (s : State) : Prop :=
  s.msg.below (s.size .msg) ∧ s.pm.below (s.size .pm) ∧ s.blkbuf.below (s.size .blkbuf) ∧ s.dg.below (s.size .dg) ∧
    s.hx.below (s.size .hx)

/-- The memory invariant. -/
def MemoryOk (s : State) : Prop := Canonical s ∧ InSpaces s

/-! Sequencer -/

/-- `SEQ` holds a control word that is not reserved (R65, R132). -/
def SeqLegal (s : State) : Prop := ∃ i, decodeU s.seq = .ok i

/-- The values `PHASE` may have when this micro-operation is next (R133). -/
def phaseAllowed : Instr → Phase → Prop
  | .wait, p => p = .idle ∨ p = .finalized
  | .chk, p | .pad, p => p = .idle
  | .init, p => p = .padded
  | .ldblk, p | .ldw _, p | .wgen _, p | .wpgen _, p => p = .padded ∨ p = .compressed
  | .save, p | .round _, p | .ffwd, p => p = .expanded
  | .nxtb, p | .digest, p => p = .compressed
  | .hex, p | .done, p => p = .finalized
  | .compute _ _, _ | .computeHex _ _, _ => False

/-- `SEQ` is legal and `PHASE` is a value R133 allows there. -/
def PhaseFits (s : State) : Prop := ∃ i, decodeU s.seq = .ok i ∧ phaseAllowed i s.phase

/-! Written before read (R34) -/

/-- The eight elements hold values. -/
def octetHeld (x : Octet (Slot 32)) : Prop := ∀ y ∈ octetList x, y.held = true

/-- The command latch holds values. -/
def latchHeld (s : State) : Prop := s.cmdop.held = true ∧ s.pres.held = true ∧ s.lreg.held = true

/-- `XW[0 .. n-1]` hold values. -/
def xwHeld (s : State) (n : Nat) : Prop := ∀ k : Fin 132, k.val < n → s.xw[k].held = true

/-- `PAD` has run: `LEN`, `NBLK` and every byte of `PM` hold values. -/
def paddedHeld (s : State) : Prop :=
  s.len.held = true ∧ s.nblk.held = true ∧ 0 < s.nblk.value.toNat ∧ s.pm.full (s.size .pm)

/-- A block is in hand: `A..H` and `BLK` hold values and `BLK < NBLK`. -/
def inBlock (s : State) : Prop :=
  latchHeld s ∧ paddedHeld s ∧ octetHeld s.regs ∧ s.blk.held = true ∧ s.blk.value.toNat < s.nblk.value.toNat

/-- The response is there to be read: with `rsp_valid = 1` and status `OK`, every byte of `DG`, and of `HX` after
`COMPUTE_HEX`, holds a value (R31, R34). -/
def resultHeld (s : State) : Prop :=
  s.rspValid = 1#1 → s.rspStatus = .ok →
    s.cmdop.held = true ∧ s.dg.full 32 ∧ (s.cmdop.value = 1#1 → s.hx.full 64)

/-- What must hold before this micro-operation for it and all that follow to read written elements only: the rows of
R34's table, read along the microprogram (R131). -/
def readyFor (s : State) : Instr → Prop
  | .wait => resultHeld s
  | .chk => latchHeld s
  | .pad => latchHeld s ∧ s.pres.value = 1#1 ∧ s.lreg.value.toNat < Config.used.lmax
  | .init => latchHeld s ∧ paddedHeld s
  | .ldblk => inBlock s
  | .ldw j => inBlock s ∧ s.blkbuf.full 64 ∧ xwHeld s j.toNat
  | .wgen j => inBlock s ∧ xwHeld s j.toNat
  | .wpgen j => inBlock s ∧ xwHeld s (68 + j.toNat)
  | .save => inBlock s ∧ xwHeld s 132
  | .round _ => inBlock s ∧ xwHeld s 132 ∧ octetHeld s.saved
  | .ffwd => inBlock s ∧ octetHeld s.saved
  | .nxtb => inBlock s
  | .digest => latchHeld s ∧ octetHeld s.regs
  | .hex => latchHeld s ∧ octetHeld s.regs ∧ s.cmdop.value = 1#1 ∧ s.dg.full 32
  | .done => latchHeld s ∧ s.dg.full 32 ∧ (s.cmdop.value = 1#1 → s.hx.full 64)
  | .compute _ _ | .computeHex _ _ => False

/-- `SEQ` is legal and everything its micro-operation needs has been written. -/
def Ready (s : State) : Prop := ∃ i, decodeU s.seq = .ok i ∧ readyFor s i

/-- The message is there for `PAD`: every byte of `MSG[0 .. L-1]` holds a value (R41, R162). -/
def messageHeld (s : State) : Prop := s.msg.full s.lreg.value.toNat

/-- Every register element the instruction reads holds a value: the `reads` column of its rule. -/
def readsHeld (s : State) : Instr → Prop
  | .wait | .init | .done => True
  | .chk => s.pres.held = true ∧ s.lreg.held = true
  | .pad => s.lreg.held = true
  | .ldblk => s.blk.held = true
  | .ldw _ => True
  | .wgen j =>
    ∀ k : Fin 132, (k.val + 16 = j.toNat ∨ k.val + 9 = j.toNat ∨ k.val + 3 = j.toNat ∨ k.val + 13 = j.toNat ∨
      k.val + 6 = j.toNat) → s.xw[k].held = true
  | .wpgen j => ∀ k : Fin 132, (k.val = j.toNat ∨ k.val = j.toNat + 4) → s.xw[k].held = true
  | .save => octetHeld s.regs
  | .round i =>
    octetHeld s.regs ∧ ∀ k : Fin 132, (k.val = i.toNat ∨ k.val = 68 + i.toNat) → s.xw[k].held = true
  | .ffwd => octetHeld s.regs ∧ octetHeld s.saved
  | .nxtb => s.blk.held = true ∧ s.nblk.held = true
  | .digest => octetHeld s.regs ∧ s.cmdop.held = true
  | .hex => octetHeld s.regs
  | .compute _ _ | .computeHex _ _ => True

/-! States that differ only where nothing has been written: what R34's "no value" leaves open -/

/-- Both elements hold the same value, or neither holds a value; the bits of one that holds none do not count. -/
def Slot.agree {w : Nat} (x y : Slot w) : Prop := x.held = y.held ∧ (x.held = true → x.value = y.value)

/-- Eight elements that agree, each with its counterpart. -/
structure OctetAgree (x y : Octet (Slot 32)) : Prop where
  a : x.a.agree y.a
  b : x.b.agree y.b
  c : x.c.agree y.c
  d : x.d.agree y.d
  e : x.e.agree y.e
  f : x.f.agree y.f
  g : x.g.agree y.g
  h : x.h.agree y.h

/-- The two states are the same but for the bits of register elements that hold no value. -/
structure AgreeWhereWritten (s t : State) : Prop where
  regs : OctetAgree s.regs t.regs
  saved : OctetAgree s.saved t.saved
  xw : ∀ k : Fin 132, s.xw[k].agree t.xw[k]
  len : s.len.agree t.len
  nblk : s.nblk.agree t.nblk
  blk : s.blk.agree t.blk
  cmdop : s.cmdop.agree t.cmdop
  pres : s.pres.agree t.pres
  lreg : s.lreg.agree t.lreg
  phase : s.phase = t.phase
  seq : s.seq = t.seq
  rspValid : s.rspValid = t.rspValid
  rspStatus : s.rspStatus = t.rspStatus
  msg : s.msg = t.msg
  pm : s.pm = t.pm
  blkbuf : s.blkbuf = t.blkbuf
  dg : s.dg = t.dg
  hx : s.hx = t.hx
  ports : s.ports = t.ports

/-- The same kind of outcome: next states that agree, the same fault, the same refusal. -/
def OutcomesAgree : Host.Outcome State Fault Refusal → Host.Outcome State Fault Refusal → Prop
  | .next t, .next t' => AgreeWhereWritten t t'
  | .fault f, .fault f' => f = f'
  | .refused r, .refused r' => r = r'
  | .next _, .fault _ | .next _, .refused _ | .fault _, .next _ | .fault _, .refused _ | .refused _, .next _
  | .refused _, .fault _ => False

end Sys2Proof.Machine
end

