-- ==== Sys2Proof/Certificates/Slice0/Obligations.lean ====
section
/-! DEFINITION. The statements for the provers. A formula of a rule is written out here from the rule's own text where
the model has a name for it, so that a slip in the model's definition makes the statement false. -/

namespace Sys2Proof.Claims

open Sys2Proof.Machine

/-- The table of R25, `TROM[0]` to `TROM[63]`. -/
def tromTable : List Word :=
  [0x79cc4519, 0xf3988a32, 0xe7311465, 0xce6228cb, 0x9cc45197, 0x3988a32f, 0x7311465e, 0xe6228cbc] ++
  [0xcc451979, 0x988a32f3, 0x311465e7, 0x6228cbce, 0xc451979c, 0x88a32f39, 0x11465e73, 0x228cbce6] ++
  [0x9d8a7a87, 0x3b14f50f, 0x7629ea1e, 0xec53d43c, 0xd8a7a879, 0xb14f50f3, 0x629ea1e7, 0xc53d43ce] ++
  [0x8a7a879d, 0x14f50f3b, 0x29ea1e76, 0x53d43cec, 0xa7a879d8, 0x4f50f3b1, 0x9ea1e762, 0x3d43cec5] ++
  [0x7a879d8a, 0xf50f3b14, 0xea1e7629, 0xd43cec53, 0xa879d8a7, 0x50f3b14f, 0xa1e7629e, 0x43cec53d] ++
  [0x879d8a7a, 0x0f3b14f5, 0x1e7629ea, 0x3cec53d4, 0x79d8a7a8, 0xf3b14f50, 0xe7629ea1, 0xcec53d43] ++
  [0x9d8a7a87, 0x3b14f50f, 0x7629ea1e, 0xec53d43c, 0xd8a7a879, 0xb14f50f3, 0x629ea1e7, 0xc53d43ce] ++
  [0x8a7a879d, 0x14f50f3b, 0x29ea1e76, 0x53d43cec, 0xa7a879d8, 0x4f50f3b1, 0x9ea1e762, 0x3d43cec5]

/-- A control word is reserved in R65's words: `OP = 0xF`, or `Z = 1`, or `idx` outside the legal range of its `OP` in
the map of R63. -/
def reservedByRule (w : Nat) : Prop :=
  let op := w / 256
  let z := w / 128 % 2
  let idx := w % 128
  op = 0xF ∨ z = 1 ∨
    ¬(if op = 0x5 then idx ≤ 15
      else if op = 0x6 then 16 ≤ idx ∧ idx ≤ 67
      else if op = 0x7 then idx ≤ 63
      else if op = 0x9 then idx ≤ 63
      else idx = 0)

/-- The set of `SEQ` values R132 lists. -/
def reachableWord (w : Nat) : Prop :=
  w = 0x000 ∨ w = 0x100 ∨ w = 0x200 ∨ w = 0x300 ∨ w = 0x400 ∨ (0x500 ≤ w ∧ w ≤ 0x50F) ∨ (0x610 ≤ w ∧ w ≤ 0x643) ∨
  (0x700 ≤ w ∧ w ≤ 0x73F) ∨ w = 0x800 ∨ (0x900 ≤ w ∧ w ≤ 0x93F) ∨ w = 0xA00 ∨ w = 0xB00 ∨ w = 0xC00 ∨ w = 0xD00 ∨
  w = 0xE00

/-- The table of R132: what a micro-operation leaves in `SEQ`, as a number. -/
def successorTable (s : State) : Instr → Nat
  | .wait => if s.ports.cmdValid = 0#1 then 0x000 else 0x100
  | .chk => if s.pres.value = 0#1 ∨ Config.used.lmax ≤ s.lreg.value.toNat then 0x000 else 0x200
  | .pad => 0x300
  | .init => 0x400
  | .ldblk => 0x500
  | .ldw j => if j.toNat < 15 then 0x500 + j.toNat + 1 else 0x610
  | .wgen j => if j.toNat < 67 then 0x600 + j.toNat + 1 else 0x700
  | .wpgen j => if j.toNat < 63 then 0x700 + j.toNat + 1 else 0x800
  | .save => 0x900
  | .round i => if i.toNat < 63 then 0x900 + i.toNat + 1 else 0xA00
  | .ffwd => 0xB00
  | .nxtb => if s.blk.value.toNat + 1 = s.nblk.value.toNat then 0xC00 else 0x400
  | .digest => if s.cmdop.value = 1#1 then 0xD00 else 0xE00
  | .hex => 0xE00
  | .done => 0x000
  | .compute _ _ | .computeHex _ _ => 0x100

/-- DOC0's eight assignments of a round in its order, `D, C, B, A` and `H, G, F, E` (R105, R166). -/
def sequentialRound (r : Octet Word) (t1 t2 : Word) : Octet Word :=
  let r := { r with d := r.c }
  let r := { r with c := rotl r.b 9 }
  let r := { r with b := r.a }
  let r := { r with a := t1 }
  let r := { r with h := r.g }
  let r := { r with g := rotl r.f 19 }
  let r := { r with f := r.e }
  { r with e := p0 t2 }

/-- The host asserts no reset at any of these steps. -/
def NoReset (ps : List Ports) : Prop := ∀ p ∈ ps, p.rst = 0#1

/-- What the host presents at a step to give a command: no reset, `cmd_valid = 1` and the command word (R135). -/
def presents (op present : BitVec 1) (len : BitVec 64) : Ports := ⟨0, 1, op, present, len⟩

/-- The message `m` stands in `MSG[0 .. L-1]`. -/
def MessageIs (s : State) (m : List Byte) : Prop := ∀ a, a < m.length → s.msg.read a = m[a]?

/-- `PHASE` values R133 gives `n` blocks: `(Expanded, Compressed)` repeated. -/
def blockPhases : Nat → List Phase
  | 0 => []
  | n + 1 => .expanded :: .compressed :: blockPhases n

end Sys2Proof.Claims

open Sys2Proof Sys2Proof.Machine Sys2Proof.Claims

/-! Primitives and functions -/

/-- R9: the arithmetic form of `rotl`, and bit `b` of `x` becomes bit `(b + n) mod 32`. -/
def Obligations.RotlMovesBitsAround : Prop :=
  ∀ (x : Word) (n : Nat), n < 32 →
    (rotl x n).toNat = (if n = 0 then x.toNat else (x.toNat * 2 ^ n) % 2 ^ 32 + x.toNat / 2 ^ (32 - n)) ∧
    ∀ b, b < 32 → (rotl x n).getLsbD ((b + n) % 32) = x.getLsbD b

/-- R10: the sum is taken in the integers and reduced once modulo `2^32`. -/
def Obligations.AdditionWrapsOnce : Prop :=
  ∀ a b c d : Word,
    (add32 a b).toNat = (a.toNat + b.toNat) % 2 ^ 32 ∧
    (add32x3 a b c).toNat = (a.toNat + b.toNat + c.toNat) % 2 ^ 32 ∧
    (add32x4 a b c d).toNat = (a.toNat + b.toNat + c.toNat + d.toNat) % 2 ^ 32

/-- R7: `BE32`, `UNBE32` and `UNBE64`, the first byte most significant. -/
def Obligations.ByteOrderIsBigEndian : Prop :=
  (∀ b0 b1 b2 b3 : Byte,
    (be32 b0 b1 b2 b3).toNat = b0.toNat * 2 ^ 24 + b1.toNat * 2 ^ 16 + b2.toNat * 2 ^ 8 + b3.toNat ∧
    unbe32 (be32 b0 b1 b2 b3) = [b0, b1, b2, b3]) ∧
  (∀ (w : Word) (t : Nat), t < 4 →
    (unbe32 w).length = 4 ∧ ((unbe32 w).getD t 0).toNat = w.toNat / 2 ^ (24 - 8 * t) % 256) ∧
  (∀ (v : BitVec 64) (t : Nat), t < 8 →
    (unbe64 v).length = 8 ∧ ((unbe64 v).getD t 0).toNat = v.toNat / 2 ^ (56 - 8 * t) % 256)

/-- R24, R25, R100: the two constants, and the 64 rotated constants of the table. -/
def Obligations.RoundConstantsAreTheTable : Prop :=
  (∀ i, roundConstant i = if i < 16 then 0x79cc4519 else 0x7a879d8a) ∧
  (∀ i, trom i = rotl (roundConstant i) (i % 32)) ∧
  (List.range 64).map trom = tromTable

/-- R94, R101, R102, R103: the permutations and the two forms of the round functions, the later ones bit by bit. -/
def Obligations.RoundFunctionsHaveTheirForms : Prop :=
  (∀ x : Word, p0 x = x ^^^ rotl x 9 ^^^ rotl x 17 ∧ p1 x = x ^^^ rotl x 15 ^^^ rotl x 23) ∧
  p0 0 = 0 ∧ p0 0xffffffff = 0xffffffff ∧ p1 0 = 0 ∧ p1 0xffffffff = 0xffffffff ∧
  (∀ (x y z : Word) (i : Nat), i < 16 → ff x y z i = x ^^^ y ^^^ z ∧ gg x y z i = x ^^^ y ^^^ z) ∧
  (∀ (x y z : Word) (i : Nat), 16 ≤ i → i ≤ 63 →
    ff x y z i = (x &&& y) ||| (x &&& z) ||| (y &&& z) ∧ gg x y z i = (x &&& y) ||| (~~~x &&& z) ∧
    ∀ b, b < 32 →
      (ff x y z i).getLsbD b = (if y.getLsbD b = z.getLsbD b then y.getLsbD b else x.getLsbD b) ∧
      (gg x y z i).getLsbD b = (if x.getLsbD b then y.getLsbD b else z.getLsbD b))

/-- `hexchar` gives the ASCII code of the lowercase digit; the codes are PRESUMED (general knowledge, G2; log 9). -/
def Obligations.HexcharIsLowercaseAscii : Prop :=
  ∀ n : BitVec 4,
    (n.toNat ≤ 9 → (hexchar n).toNat = 0x30 + n.toNat) ∧
    (10 ≤ n.toNat → (hexchar n).toNat = 0x61 + (n.toNat - 10)) ∧
    ¬(0x41 ≤ (hexchar n).toNat ∧ (hexchar n).toNat ≤ 0x46)

/-! Encoding -/

/-- Decoding the encoding of a well-formed instruction gives it back, every operand at every value its field
admits. -/
def Obligations.DecodeInvertsEncode : Prop :=
  ∀ i : Instr, i.wf = true → decode (encode i) = .ok i

/-- Encoding what a word decodes to gives the word back, and only well-formed instructions are decoded. -/
def Obligations.EncodeInvertsDecode : Prop :=
  ∀ (c : CodeWord) (i : Instr), decode c = .ok i → encode i = c ∧ i.wf = true

/-- R65: exactly the reserved words are rejected, the machine refuses them, and `exec` never leaves one in `SEQ` when
it runs the micro-operation a legal `SEQ` names. -/
def Obligations.ReservedWordsAreRefused : Prop :=
  (∀ w : BitVec 12, (∃ r, decodeU w = .error r) ↔ reservedByRule w.toNat) ∧
  (∀ s : State, s.ports.rst = 0#1 → reservedByRule s.seq.toNat → step s = .refused .reservedWord) ∧
  (∀ s t : State, ¬reservedByRule s.seq.toNat → step s = .next t → ¬reservedByRule t.seq.toNat) ∧
  SeqLegal State.reset

/-- Words written out from the encoding tables decode to the instructions they stand for (R60, R63). -/
def Obligations.SampleWordsDecode : Prop :=
  decode (.u 0x000) = .ok .wait ∧ decode (.u 0x200) = .ok .pad ∧ decode (.u 0x50F) = .ok (.ldw 15) ∧
  decode (.u 0x610) = .ok (.wgen 16) ∧ decode (.u 0x73F) = .ok (.wpgen 63) ∧ decode (.u 0x911) = .ok (.round 17) ∧
  decode (.u 0xB00) = .ok .nxtb ∧ decode (.u 0xD00) = .ok .hex ∧
  decode (.hc 0x10000000000000003) = .ok (.compute 1 3) ∧
  decode (.hc 0x32000000000000000) = .ok (.computeHex 1 0x2000000000000000)

/-- A step without reset runs the instruction the machine reads: the control word in `SEQ`, or at `WAIT` the host
command presented on the ports. That a command at `WAIT` is itself the instruction of one step, its acceptance, is the
model's reading (DEDUCED, logs 3 and 4). -/
def Obligations.StepRunsTheFetchedInstruction : Prop :=
  ∀ s : State, s.ports.rst = 0#1 →
    (∀ i, decodeU s.seq = .ok i → i ≠ .wait → step s = exec i s) ∧
    (s.seq = 0x000#12 → s.ports.cmdValid = 0#1 → step s = exec .wait s) ∧
    (s.seq = 0x000#12 → s.ports.cmdValid = 1#1 →
      step s = (if s.ports.cmdOp = 0#1 then exec (.compute s.ports.msgPresent s.ports.msgLen) s
        else exec (.computeHex s.ports.msgPresent s.ports.msgLen) s))

/-- A table word placed by `withFetchWord` is the instruction the next step runs. -/
def Obligations.PlacedWordIsRun : Prop :=
  ∀ (s : State) (nbits w : Nat) (i : Instr), decodeTableWord nbits w = some i →
    step (s.withFetchWord nbits w) = exec i (s.withFetchWord nbits w)

/-! Padder -/

/-- R80, R83: the closed forms of the padding lengths, and the table of the lengths DOC0 names. -/
def Obligations.PaddingLengthsAreClosedForms : Prop :=
  (∀ l, l < 2 ^ 61 →
    blockCount l = (l + 8) / 64 + 1 ∧ zeroCount l = 64 * blockCount l - l - 9 ∧
    l * 8 < 2 ^ 64 ∧ 1 ≤ blockCount l ∧ blockCount l ≤ 2 ^ 55 + 1 ∧ 64 * blockCount l = l + 1 + zeroCount l + 8 ∧
    zeroCount l ≤ 63 ∧ (l + 1 + zeroCount l) % 64 = 56 ∧ (∀ z, (l + 1 + z) % 64 = 56 → zeroCount l ≤ z) ∧
    (zeroCount l : Int) = (55 - (l : Int)) % 64 ∧ l < 64 * blockCount l ∧ 64 * blockCount l % 64 = 0 ∧
    l + 9 ≤ 64 * blockCount l ∧ 64 * blockCount l ≤ l + 72) ∧
  [0, 55, 56, 63, 64, 119, 120].map (fun l => (blockCount l, zeroCount l, 64 * blockCount l)) =
    [(1, 55, 64), (1, 0, 64), (2, 63, 128), (2, 56, 128), (2, 55, 128), (2, 0, 128), (3, 63, 192)]

/-- R81, R82: `PAD` writes `LEN`, `NBLK` and every byte of `PM` as `PadByte` says, goes to `INIT`, and changes nothing
else. -/
def Obligations.PadWritesThePaddedMessage : Prop :=
  ∀ s : State, s.lreg.value.toNat < Config.used.lmax →
    (∀ a, a < s.lreg.value.toNat → ∃ b, s.msg.read a = some b) →
    ∃ t, exec .pad s = .next t ∧
      t.len.held = true ∧ t.len.value.toNat = s.lreg.value.toNat * 8 ∧
      t.nblk.held = true ∧ t.nblk.value.toNat = (s.lreg.value.toNat + 8) / 64 + 1 ∧
      (∀ a, a < 64 * ((s.lreg.value.toNat + 8) / 64 + 1) →
        t.pm.read a =
          if a < s.lreg.value.toNat then s.msg.read a
          else if a = s.lreg.value.toNat then some 0x80
          else if a < 64 * ((s.lreg.value.toNat + 8) / 64 + 1) - 8 then some 0x00
          else some (BitVec.ofNat 8 (s.lreg.value.toNat * 8 /
            2 ^ (56 - 8 * (a - (64 * ((s.lreg.value.toNat + 8) / 64 + 1) - 8)))))) ∧
      t.phase = .padded ∧ t.seq = 0x300#12 ∧
      t = { s with len := t.len, nblk := t.nblk, pm := t.pm, phase := t.phase, seq := t.seq }

/-- After `PAD` no byte of `PM` is listed at `64 * NBLK` or above: the space has that size (R40). The model's choice:
bytes a longer earlier message left are dropped (DEDUCED, log 11). -/
def Obligations.PadLeavesNothingBeyondThePaddedMessage : Prop :=
  ∀ s t : State, exec .pad s = .next t → ∀ a, 64 * t.nblk.value.toNat ≤ a → t.pm.read a = none

/-- Reading a byte that holds no value, or an address outside its space, faults by name: `PAD`, `LDBLK`, `LDW` (the
model's rows of the log: 2, 10, 18). -/
def Obligations.MissingBytesFault : Prop :=
  ∀ s : State,
    (Config.used.lmax ≤ s.lreg.value.toNat → exec .pad s = .fault (.noSuchAddress .msg)) ∧
    (s.lreg.value.toNat < Config.used.lmax → ∀ a, a < s.lreg.value.toNat → s.msg.read a = none →
      exec .pad s = .fault (.noValue .msg)) ∧
    (s.nblk.value.toNat ≤ s.blk.value.toNat → exec .ldblk s = .fault (.noSuchAddress .pm)) ∧
    (s.blk.value.toNat < s.nblk.value.toNat → ∀ a, a < 64 → s.pm.read (64 * s.blk.value.toNat + a) = none →
      exec .ldblk s = .fault (.noValue .pm)) ∧
    (∀ j : BitVec 7, j.toNat ≤ 15 → ∀ a, a < 4 → s.blkbuf.read (4 * j.toNat + a) = none →
      exec (.ldw j) s = .fault (.noValue .blkbuf))

/-- R84: the empty message passes `CHK`, and `PAD` gives one block, `0x80` and 63 zero bytes, whatever `MSG` holds. -/
def Obligations.EmptyMessageSucceeds : Prop :=
  ∀ (s : State) (m : Memory), s.pres.value = 1#1 → s.lreg.value = 0#64 →
    exec .chk s = .next { s with seq := 0x200#12 } ∧
    ∃ t, exec .pad s = .next t ∧ exec .pad (s.withMsg m) = .next (t.withMsg m) ∧
      t.nblk.value.toNat = 1 ∧ zeroCount 0 = 55 ∧ t.len.value.toNat = 0 ∧ t.pm.read 0 = some 0x80 ∧
      (∀ a, 1 ≤ a → a ≤ 63 → t.pm.read a = some 0x00)

/-! Block Splitter -/

/-- R90: `LDBLK` copies block `BLK` of `PM` into `BLKBUF`, byte for byte, and changes nothing else. -/
def Obligations.LdblkCopiesTheBlock : Prop :=
  ∀ s : State, s.blk.value.toNat < s.nblk.value.toNat →
    (∀ a, a < 64 → ∃ b, s.pm.read (64 * s.blk.value.toNat + a) = some b) →
    ∃ t, exec .ldblk s = .next t ∧
      (∀ a, a < 64 → t.blkbuf.read a = s.pm.read (64 * s.blk.value.toNat + a)) ∧
      (∀ a, 64 ≤ a → t.blkbuf.read a = s.blkbuf.read a) ∧
      t.seq = 0x500#12 ∧ t = { s with blkbuf := t.blkbuf, seq := t.seq }

/-- R91: `NXTB` counts the block and closes or leaves the loop; nothing else changes. Past `2^56 - 1` the value of `BLK`
is open (log 12) and the rest is as before. -/
def Obligations.NxtbCountsBlocks : Prop :=
  ∀ s : State, ∃ t, exec .nxtb s = .next t ∧
    t.blk.held = true ∧ (s.blk.value.toNat + 1 < 2 ^ 56 → t.blk.value.toNat = s.blk.value.toNat + 1) ∧
    t.seq = (if s.blk.value.toNat + 1 = s.nblk.value.toNat then 0xC00#12 else 0x400#12) ∧
    t = { s with blk := t.blk, seq := t.seq }

/-! Message Expander -/

/-- R95: `LDW j` writes the big-endian word of bytes `4j .. 4j+3` of `BLKBUF` to `XW[j]` and changes nothing else. -/
def Obligations.LdwLoadsTheWord : Prop :=
  ∀ (s : State) (j : BitVec 7) (d : Fin 132) (b0 b1 b2 b3 : Byte), j.toNat ≤ 15 → d.val = j.toNat →
    s.blkbuf.read (4 * j.toNat) = some b0 → s.blkbuf.read (4 * j.toNat + 1) = some b1 →
    s.blkbuf.read (4 * j.toNat + 2) = some b2 → s.blkbuf.read (4 * j.toNat + 3) = some b3 →
    ∃ t, exec (.ldw j) s = .next t ∧
      t.xw[d].held = true ∧
      t.xw[d].value.toNat = b0.toNat * 2 ^ 24 + b1.toNat * 2 ^ 16 + b2.toNat * 2 ^ 8 + b3.toNat ∧
      (∀ k : Fin 132, k ≠ d → t.xw[k] = s.xw[k]) ∧
      t.seq.toNat = (if j.toNat < 15 then 0x500 + j.toNat + 1 else 0x610) ∧
      t = { s with xw := t.xw, seq := t.seq }

/-- R96: `WGEN j` computes `XW[j]` from the five strictly earlier words and changes nothing else. -/
def Obligations.WgenComputesTheWord : Prop :=
  ∀ (s : State) (j : BitVec 7) (d k16 k9 k3 k13 k6 : Fin 132), 16 ≤ j.toNat → j.toNat ≤ 67 →
    d.val = j.toNat → k16.val + 16 = j.toNat → k9.val + 9 = j.toNat → k3.val + 3 = j.toNat → k13.val + 13 = j.toNat →
    k6.val + 6 = j.toNat →
    ∃ t, exec (.wgen j) s = .next t ∧
      t.xw[d] = ⟨(let x := s.xw[k16].value ^^^ s.xw[k9].value ^^^ rotl s.xw[k3].value 15
                  x ^^^ rotl x 15 ^^^ rotl x 23) ^^^ rotl s.xw[k13].value 7 ^^^ s.xw[k6].value, true⟩ ∧
      (∀ k : Fin 132, k ≠ d → t.xw[k] = s.xw[k]) ∧
      t.seq.toNat = (if j.toNat < 67 then 0x600 + j.toNat + 1 else 0x700) ∧
      t = { s with xw := t.xw, seq := t.seq }

/-- R97: `WPGEN j` writes `W[j] xor W[j+4]` to `XW[68+j]`, sets `PHASE` to `Expanded` only with `j = 63`, and changes
nothing else. -/
def Obligations.WpgenXorsTwoWords : Prop :=
  ∀ (s : State) (j : BitVec 7) (d k k4 : Fin 132), j.toNat ≤ 63 →
    d.val = 68 + j.toNat → k.val = j.toNat → k4.val = j.toNat + 4 →
    ∃ t, exec (.wpgen j) s = .next t ∧
      t.xw[d] = ⟨s.xw[k].value ^^^ s.xw[k4].value, true⟩ ∧
      (∀ n : Fin 132, n ≠ d → t.xw[n] = s.xw[n]) ∧
      t.phase = (if j.toNat = 63 then .expanded else s.phase) ∧
      t.seq.toNat = (if j.toNat < 63 then 0x700 + j.toNat + 1 else 0x800) ∧
      t = { s with xw := t.xw, phase := t.phase, seq := t.seq }

/-- An indexed micro-operation whose index is out of its legal range has no meaning: its word is reserved. -/
def Obligations.OutOfRangeIndexIsRefused : Prop :=
  ∀ (s : State) (j : BitVec 7),
    (15 < j.toNat → exec (.ldw j) s = .refused .reservedWord) ∧
    (j.toNat < 16 ∨ 67 < j.toNat → exec (.wgen j) s = .refused .reservedWord) ∧
    (63 < j.toNat → exec (.wpgen j) s = .refused .reservedWord) ∧
    (63 < j.toNat → exec (.round j) s = .refused .reservedWord)

/-! Compression Function -/

/-- R104: `SAVE` copies `A..H` into `SAVE[0..7]` and changes nothing else. -/
def Obligations.SaveCopiesTheState : Prop :=
  ∀ s : State, ∃ t, exec .save s = .next t ∧
    t.savedWords = s.regWords ∧ (∀ x ∈ octetList t.saved, x.held = true) ∧ t.seq = 0x900#12 ∧
    t = { s with saved := t.saved, seq := t.seq }

/-- R105: `ROUND i` gives the eight registers the values of the rule, all from the old ones, and changes nothing
else. -/
def Obligations.RoundUpdatesTheRegisters : Prop :=
  ∀ (s : State) (i : BitVec 7) (k k' : Fin 132), i.toNat ≤ 63 → k.val = i.toNat → k'.val = 68 + i.toNat →
    let r := s.regWords
    let c : Word := if i.toNat < 16 then 0x79cc4519 else 0x7a879d8a
    let s1 := rotl (rotl r.a 12 + r.e + rotl c (i.toNat % 32)) 7
    let s2 := s1 ^^^ rotl r.a 12
    let f := if i.toNat < 16 then r.a ^^^ r.b ^^^ r.c else (r.a &&& r.b) ||| (r.a &&& r.c) ||| (r.b &&& r.c)
    let g := if i.toNat < 16 then r.e ^^^ r.f ^^^ r.g else (r.e &&& r.f) ||| (~~~r.e &&& r.g)
    let t1 := f + r.d + s2 + s.xw[k'].value
    let t2 := g + r.h + s1 + s.xw[k].value
    ∃ t, exec (.round i) s = .next t ∧
      t.regWords = ⟨t1, r.a, rotl r.b 9, r.c, t2 ^^^ rotl t2 9 ^^^ rotl t2 17, r.e, rotl r.f 19, r.g⟩ ∧
      (∀ x ∈ octetList t.regs, x.held = true) ∧
      t.seq.toNat = (if i.toNat < 63 then 0x900 + i.toNat + 1 else 0xA00) ∧
      t = { s with regs := t.regs, seq := t.seq }

/-- R166: DOC0's eight assignments in its order equal the simultaneous update. -/
def Obligations.SequentialAssignmentsEqualTheRound : Prop :=
  ∀ (r : Octet Word) (i : Nat) (w wp : Word), i ≤ 63 →
    sequentialRound r (tt1 r i wp) (tt2 r i w) = roundRegs r i w wp

/-- R106: `FFWD` xors `SAVE` into `A..H`, sets `PHASE` to `Compressed`, and changes nothing else. -/
def Obligations.FfwdXorsTheSavedState : Prop :=
  ∀ s : State, ∃ t, exec .ffwd s = .next t ∧
    octetList t.regWords = List.zipWith (· ^^^ ·) (octetList s.regWords) (octetList s.savedWords) ∧
    (∀ x ∈ octetList t.regs, x.held = true) ∧ t.phase = .compressed ∧ t.seq = 0xB00#12 ∧
    t = { s with regs := t.regs, phase := t.phase, seq := t.seq }

/-! Digest Assembler -/

/-- R115: `DIGEST` stores each register in four bytes of `DG`, most significant first, `A` first, and changes nothing
else but `PHASE` and `SEQ`. -/
def Obligations.DigestStoresBigEndianRegisters : Prop :=
  ∀ s : State, ∃ t, exec .digest s = .next t ∧
    (∀ r w, (octetList s.regWords)[r]? = some w → ∀ n, n < 4 →
      t.dg.read (4 * r + n) = some (BitVec.ofNat 8 (w.toNat / 2 ^ (24 - 8 * n)))) ∧
    (∀ a, 32 ≤ a → t.dg.read a = s.dg.read a) ∧
    t.phase = .finalized ∧ t.seq = (if s.cmdop.value = 1#1 then 0xD00#12 else 0xE00#12) ∧
    t = { s with dg := t.dg, phase := t.phase, seq := t.seq }

/-- R117: `HEX` writes eight characters for each register, most significant nibble first, and changes nothing else but
`SEQ`. -/
def Obligations.HexWritesEightCharactersPerRegister : Prop :=
  ∀ s : State, ∃ t, exec .hex s = .next t ∧
    (∀ r w, (octetList s.regWords)[r]? = some w → ∀ d, d < 8 →
      t.hx.read (8 * r + d) = some (hexchar (BitVec.ofNat 4 (w.toNat / 2 ^ (28 - 4 * d))))) ∧
    (∀ a, 64 ≤ a → t.hx.read a = s.hx.read a) ∧
    t.seq = 0xE00#12 ∧ t = { s with hx := t.hx, seq := t.seq }

/-- R118: after `DIGEST` and `HEX` each digest byte stands in `HX` as its two characters. -/
def Obligations.HexViewAgreesWithDigest : Prop :=
  ∀ s t u : State, exec .digest s = .next t → exec .hex t = .next u →
    ∀ b, b < 32 → ∃ y, u.dg.read b = some y ∧
      u.hx.read (2 * b) = some (hexchar (y.extractLsb' 4 4)) ∧
      u.hx.read (2 * b + 1) = some (hexchar (y.extractLsb' 0 4))

/-! Boundary micro-operations and commands -/

/-- R125: `WAIT` holds without a command, changing nothing, and accepts a presented one. -/
def Obligations.WaitHoldsOrAccepts : Prop :=
  ∀ s : State,
    (s.ports.cmdValid = 0#1 → exec .wait s = .next s) ∧
    (s.ports.cmdValid = 1#1 → ∃ t, exec .wait s = .next t ∧
      t.cmdop = ⟨s.ports.cmdOp, true⟩ ∧ t.pres = ⟨s.ports.msgPresent, true⟩ ∧ t.lreg = ⟨s.ports.msgLen, true⟩ ∧
      t.rspValid = 0#1 ∧ t.phase = .idle ∧ (∀ a, t.dg.read a = none ∧ t.hx.read a = none) ∧ t.seq = 0x100#12 ∧
      t = { s with cmdop := t.cmdop, pres := t.pres, lreg := t.lreg, rspValid := t.rspValid, phase := t.phase,
                   dg := t.dg, hx := t.hx, seq := t.seq })

/-- R126, R142, R144: the two tests of `CHK` in their order, against the named bound `LMAX`; an error changes only the
response and `SEQ`. -/
def Obligations.ChkTestsPresenceThenLength : Prop :=
  ∀ s : State,
    (s.pres.value = 0#1 →
      exec .chk s = .next { s with rspStatus := .nullInput, rspValid := 1#1, seq := 0x000#12 }) ∧
    (s.pres.value = 1#1 → Config.used.lmax ≤ s.lreg.value.toNat →
      exec .chk s = .next { s with rspStatus := .inputTooLarge, rspValid := 1#1, seq := 0x000#12 }) ∧
    (s.pres.value = 1#1 → s.lreg.value.toNat < Config.used.lmax →
      exec .chk s = .next { s with seq := 0x200#12 })

/-- The length test under every bound between the two readings of DOC0: lengths below `2^58` pass and lengths from
`2^61` on are refused; the machine's own bound is one of them (C2, U1; log 7). -/
def Obligations.LengthTestAgreesUnderBothReadings : Prop :=
  2 ^ 58 ≤ Config.used.lmax ∧ Config.used.lmax ≤ 2 ^ 61 ∧
  ∀ (lmax : Nat) (len : BitVec 64), 2 ^ 58 ≤ lmax → lmax ≤ 2 ^ 61 →
    (len.toNat < 2 ^ 58 → checkInput lmax 1 len = none) ∧
    (2 ^ 61 ≤ len.toNat → checkInput lmax 1 len = some .inputTooLarge) ∧
    checkInput lmax 0 len = some .nullInput

/-- R127: `INIT` sets `A..H` to the initial vector and `BLK` to 0, and changes nothing else. -/
def Obligations.InitLoadsTheInitialVector : Prop :=
  ∀ s : State, ∃ t, exec .init s = .next t ∧
    t.regWords = Config.used.iv ∧ (∀ x ∈ octetList t.regs, x.held = true) ∧ t.blk = ⟨0, true⟩ ∧ t.seq = 0x400#12 ∧
    t = { s with regs := t.regs, blk := t.blk, seq := t.seq }

/-- `INIT` leaves the eight words of the initial vector in `A..H`, in that order; the words are PRESUMED (general
knowledge, G1; log 8). -/
def Obligations.InitialVectorIsTheStatedWords : Prop :=
  Config.used.iv = ⟨0x7380166f, 0x4914b2b9, 0x172442d7, 0xda8a0600, 0xa96f30bc, 0x163138aa, 0xe38dee4d, 0xb0fb0e4e⟩ ∧
  ∀ s : State, ∃ t, exec .init s = .next t ∧
    (octetList t.regs).map (fun x => x.value.toNat) =
      [0x7380166f, 0x4914b2b9, 0x172442d7, 0xda8a0600, 0xa96f30bc, 0x163138aa, 0xe38dee4d, 0xb0fb0e4e]

/-- R128: `DONE` sets the response `OK`, returns to `WAIT`, and changes nothing else. -/
def Obligations.DoneRespondsOk : Prop :=
  ∀ s : State,
    exec .done s = .next { s with rspStatus := .ok, rspValid := 1#1, seq := 0x000#12 } ∧ Status.code .ok = 0#2

/-- `COMPUTE` and `COMPUTE_HEX` presented while `cmd_ready = 1` are accepted in one step; while the core is busy they
have no effect (the model's reading of a command as one instruction: logs 3, 14). -/
def Obligations.CommandsAreAcceptedWhenReady : Prop :=
  ∀ (s : State) (p : BitVec 1) (l : BitVec 64),
    (s.seq = 0x000#12 →
      exec (.compute p l) s = .next { s with
        cmdop := ⟨0, true⟩, pres := ⟨p, true⟩, lreg := ⟨l, true⟩, rspValid := 0, phase := .idle, dg := [], hx := [],
        seq := 0x100#12 } ∧
      exec (.computeHex p l) s = .next { s with
        cmdop := ⟨1, true⟩, pres := ⟨p, true⟩, lreg := ⟨l, true⟩, rspValid := 0, phase := .idle, dg := [], hx := [],
        seq := 0x100#12 }) ∧
    (s.seq.toNat / 256 ≠ 0 → exec (.compute p l) s = .next s ∧ exec (.computeHex p l) s = .next s)

/-- What `WAIT` does with a command on the ports is what the host command word on them does (log 4). -/
def Obligations.WaitDoesWhatTheCommandDoes : Prop :=
  ∀ s : State, s.seq = 0x000#12 → s.ports.cmdValid = 1#1 →
    exec .wait s = (if s.ports.cmdOp = 0#1 then exec (.compute s.ports.msgPresent s.ports.msgLen) s
      else exec (.computeHex s.ports.msgPresent s.ports.msgLen) s)

/-! Whole-machine rules -/

/-- R132: every micro-operation leaves in `SEQ` what the table says, the table stays inside its 207 words, and none of
them is reserved. -/
def Obligations.SuccessorFunctionIsTheTable : Prop :=
  (∀ (s t : State) (i : Instr), decodeU s.seq = .ok i → exec i s = .next t →
    t.seq.toNat = successorTable s i ∧ reachableWord t.seq.toNat) ∧
  (∀ w : BitVec 12, reachableWord w.toNat ↔ ∃ i, decodeU w = .ok i) ∧
  ((List.range 4096).filter fun w => (decodeTableWord 12 w).isSome).length = 207

/-- Each piece of state changes only under the instructions the spec lists as its writers; `MSG` and the input ports
change under none. -/
def Obligations.OnlyTheListedWritersWrite : Prop :=
  ∀ (i : Instr) (s t : State), exec i s = .next t →
    let accepts := i = .wait ∨ (∃ p l, i = .compute p l) ∨ (∃ p l, i = .computeHex p l)
    (t.regs ≠ s.regs → i = .init ∨ (∃ k, i = .round k) ∨ i = .ffwd) ∧
    (t.saved ≠ s.saved → i = .save) ∧
    (t.xw ≠ s.xw → (∃ j, i = .ldw j) ∨ (∃ j, i = .wgen j) ∨ (∃ j, i = .wpgen j)) ∧
    (t.len ≠ s.len ∨ t.nblk ≠ s.nblk ∨ t.pm ≠ s.pm → i = .pad) ∧
    (t.blk ≠ s.blk → i = .init ∨ i = .nxtb) ∧
    (t.cmdop ≠ s.cmdop ∨ t.pres ≠ s.pres ∨ t.lreg ≠ s.lreg → accepts) ∧
    (t.phase ≠ s.phase → accepts ∨ i = .pad ∨ i = .wpgen 63 ∨ i = .ffwd ∨ i = .digest) ∧
    (t.rspValid ≠ s.rspValid → accepts ∨ i = .chk ∨ i = .done) ∧
    (t.rspStatus ≠ s.rspStatus → i = .chk ∨ i = .done) ∧
    (t.blkbuf ≠ s.blkbuf → i = .ldblk) ∧
    (t.dg ≠ s.dg → accepts ∨ i = .digest) ∧
    (t.hx ≠ s.hx → accepts ∨ i = .hex) ∧
    t.msg = s.msg ∧ t.ports = s.ports

/-- An error response comes from `CHK` alone: whatever instruction leaves an error status it did not find is `CHK`. -/
def Obligations.ErrorsComeFromChkAlone : Prop :=
  ∀ (i : Instr) (s t : State), exec i s = .next t → t.rspStatus ≠ .ok →
    t.rspStatus ≠ s.rspStatus ∨ t.rspValid ≠ s.rspValid → t.rspValid = 1#1 →
    i = .chk ∧ (t.rspStatus = .nullInput ↔ s.pres.value = 0#1)

/-- While the core is busy the command ports make no difference: two hosts that agree on `rst` get the same step. -/
def Obligations.CommandPortsAreIgnoredWhileBusy : Prop :=
  ∀ (s : State) (p q : Ports), s.seq ≠ 0x000#12 → p.rst = q.rst →
    (∀ t, step (s.withPorts p) = .next t → step (s.withPorts q) = .next (t.withPorts q)) ∧
    (∀ f, step (s.withPorts p) = .fault f → step (s.withPorts q) = .fault f) ∧
    (∀ r, step (s.withPorts p) = .refused r → step (s.withPorts q) = .refused r)

/-- `MSG` is read by `PAD` alone, and there only below `L`: any other step, and `PAD` with the same bytes there, is the
same whatever else `MSG` holds. -/
def Obligations.MessageIsReadByPadAlone : Prop :=
  ∀ (s : State) (m : Memory),
    (s.seq ≠ 0x200#12 ∨ ∀ a, a < s.lreg.value.toNat → m.read a = s.msg.read a) →
    (∀ t, step s = .next t → step (s.withMsg m) = .next (t.withMsg m)) ∧
    (∀ f, step s = .fault f → step (s.withMsg m) = .fault f) ∧
    (∀ r, step s = .refused r → step (s.withMsg m) = .refused r)

/-! Invariants: every move of either agent keeps them -/

/-- The five memories keep their canonical form and stay inside their spaces, `MSG` among them (R40). -/
def Obligations.MovesKeepMemoryOk : Prop :=
  ∀ (s t : State) (m : Move), MemoryOk s → move m s = .next t → MemoryOk t

/-- `SEQ` stays legal and `PHASE` stays in step with it. -/
def Obligations.MovesKeepPhaseInStep : Prop :=
  ∀ (s t : State) (m : Move), PhaseFits s → move m s = .next t → PhaseFits t

/-- Every register, and every byte of the core's own spaces, that the micro-operations ahead will read stays written.
The message bytes `PAD` reads are the host's and are not part of it (`messageHeld`). -/
def Obligations.MovesKeepReady : Prop :=
  ∀ (s t : State) (m : Move), Ready s → move m s = .next t → Ready t

/-- From a ready state the core always takes its step, but for a `PAD` whose message is not there: it cannot fail
part-way. -/
def Obligations.ReadyCoreAlwaysSteps : Prop :=
  ∀ s : State, Ready s → (s.seq = 0x200#12 → messageHeld s) → ∃ t, step s = .next t

/-- In a ready state the instruction that runs reads written registers only: on any state that is the same but for
the bits of register elements that hold no value, `exec` has the same outcome but for such bits, so the values the
model gives unwritten registers (log 1) make no difference. The registers its rule lists as read all hold values. -/
def Obligations.ReadyStepsReadWrittenRegisters : Prop :=
  ∀ (s s' : State) (i : Instr), Ready s → AgreeWhereWritten s s' → fetch s = .ok i →
    fetch s' = .ok i ∧ OutcomesAgree (exec i s) (exec i s') ∧ readsHeld s i

/-- The state after reset meets every invariant. -/
def Obligations.ResetMeetsTheInvariants : Prop :=
  MemoryOk State.reset ∧ PhaseFits State.reset ∧ Ready State.reset

/-! Reset -/

/-- The state after reset has the values the spec gives, no register element is held, and no byte of the core's spaces
has a value. (What bits an unheld register has is the model's choice, log 1, and is not stated.) -/
def Obligations.ResetLeavesTheStatedValues : Prop :=
  State.reset.seq = 0x000#12 ∧ State.reset.phase.code = 0#3 ∧ State.reset.rspValid = 0#1 ∧
  State.reset.rspStatus.code = 0#2 ∧ cmdReady State.reset = 1#1 ∧
  (∀ x ∈ octetList State.reset.regs, x.held = false) ∧ (∀ x ∈ octetList State.reset.saved, x.held = false) ∧
  (∀ k : Fin 132, State.reset.xw[k].held = false) ∧
  State.reset.len.held = false ∧ State.reset.nblk.held = false ∧ State.reset.blk.held = false ∧
  State.reset.cmdop.held = false ∧ State.reset.pres.held = false ∧ State.reset.lreg.held = false ∧
  ∀ a, State.reset.pm.read a = none ∧ State.reset.blkbuf.read a = none ∧ State.reset.dg.read a = none ∧
    State.reset.hx.read a = none

/-- `rst` at any step, a command presented or not, a legal `SEQ` or not: the core is as after reset, without a
response, and `MSG` and the ports are as they were. -/
def Obligations.ResetWinsAtAnyStep : Prop :=
  ∀ s : State, s.ports.rst = 1#1 →
    step s = .next { State.reset with msg := s.msg, ports := s.ports } ∧
    digestPort { State.reset with msg := s.msg, ports := s.ports } = .error .noResult ∧
    hexPort { State.reset with msg := s.msg, ports := s.ports } = .error .noResult

/-! The host's side -/

/-- `digest` and `hex` have a defined value only with a response of status `OK`, `hex` only after `COMPUTE_HEX`; then
they are the bytes of `DG` and `HX`, the first most significant. -/
def Obligations.ResultPortsAreDefinedOnlyWithAResult : Prop :=
  ∀ s : State,
    (¬(s.rspValid = 1#1 ∧ s.rspStatus = .ok) → digestPort s = .error .noResult ∧ hexPort s = .error .noResult) ∧
    (s.cmdop.value = 0#1 → hexPort s = .error .noResult) ∧
    (∀ v : BitVec 256, digestPort s = .ok v → ∀ a, a < 32 → s.dg.read a = some (v.extractLsb' (248 - 8 * a) 8)) ∧
    (∀ v : BitVec 512, hexPort s = .ok v → ∀ a, a < 64 → s.hx.read a = some (v.extractLsb' (504 - 8 * a) 8))

/-- The ports `rsp_status` and `phase` show the codes of the three statuses and the five phases and nothing else,
`cmd_ready` is 1 exactly when the operation in `SEQ` is `WAIT`, and the two errors of `CHK` and the response of `DONE`
reach the host as codes 1, 2 and 0. -/
def Obligations.StatusAndPhasePortsShowTheirCodes : Prop :=
  ∀ s : State,
    (statusPort s).toNat =
      (if s.rspStatus = .ok then 0 else if s.rspStatus = .nullInput then 1 else 2) ∧
    (phasePort s).toNat =
      (if s.phase = .idle then 0 else if s.phase = .padded then 1 else if s.phase = .expanded then 2
        else if s.phase = .compressed then 3 else 4) ∧
    (statusPort s).toNat ≤ 2 ∧ (phasePort s).toNat ≤ 4 ∧
    cmdReady s = (if s.seq.toNat / 256 = 0 then 1#1 else 0#1) ∧
    (s.pres.value = 0#1 → ∃ t, exec .chk s = .next t ∧ t.rspValid = 1#1 ∧ statusPort t = 1#2) ∧
    (s.pres.value = 1#1 → Config.used.lmax ≤ s.lreg.value.toNat →
      ∃ t, exec .chk s = .next t ∧ t.rspValid = 1#1 ∧ statusPort t = 2#2) ∧
    ∃ t, exec .done s = .next t ∧ t.rspValid = 1#1 ∧ statusPort t = 0#2

/-- A host write changes one byte of `MSG` and nothing else; a byte of a message in use is no host's to write (the
model's refusal, log 15). -/
def Obligations.HostWritesOnlyFreeMessageBytes : Prop :=
  ∀ (s : State) (a : Nat) (b : Byte),
    (a < messageInUse s → hostMove (.writeMsg a b) s = .refused .messageInUse) ∧
    (messageInUse s ≤ a → a < Config.used.lmax - 1 → ∃ t, hostMove (.writeMsg a b) s = .next t ∧
      t.msg.read a = some b ∧ (∀ x, x ≠ a → t.msg.read x = s.msg.read x) ∧ t = { s with msg := t.msg }) ∧
    (messageInUse s ≤ a → Config.used.lmax - 1 ≤ a →
      hostMove (.writeMsg a b) s = .fault (.noSuchAddress .msg))

/-! Runs -/

/-- One pass of the loop, 200 steps from `LDBLK`: `A..H` become `CF` of what they were and the expanded block, `BLK`
counts, and the loop closes or ends, whatever the host presents but a reset. -/
def Obligations.OneBlockChainsTheState : Prop :=
  ∀ (s : State) (ps : List Ports) (bs : List Byte), ps.length = 200 → NoReset ps → s.seq = 0x400#12 →
    s.blk.value.toNat + 1 < 2 ^ 56 → memRead s .pm (64 * s.blk.value.toNat) 64 = .ok bs →
    ∃ t, runInputs ps s = .next t ∧
      t.regWords = refCf s.regWords (refExpand bs) ∧ t.savedWords = s.regWords ∧
      t.blk.value.toNat = s.blk.value.toNat + 1 ∧
      t.seq = (if s.blk.value.toNat + 1 = s.nblk.value.toNat then 0xC00#12 else 0x400#12) ∧ t.phase = .compressed ∧
      t.pm = s.pm ∧ t.nblk = s.nblk ∧ t.len = s.len ∧ t.cmdop = s.cmdop ∧ t.pres = s.pres ∧ t.lreg = s.lreg ∧
      t.msg = s.msg ∧ t.dg = s.dg ∧ t.hx = s.hx ∧ t.rspValid = s.rspValid ∧ t.rspStatus = s.rspStatus

/-- R129, R130, R134, R136: from any state at `WAIT`, a command on a message that stands in `MSG` runs
`5 + 200 * NBLK` micro-operations after its acceptance (one more with `HEX`), is not back at `WAIT` before, and ends with status
`OK` and the digest `SM3(m)` (and its hexadecimal view after `COMPUTE_HEX`, none after `COMPUTE`), whatever the host
presents meanwhile but a reset. Lengths are below `2^58`, where both readings of `LMAX` accept (log 7). -/
def Obligations.RunComputesTheDigest : Prop :=
  ∀ (s : State) (m : List Byte) (op : BitVec 1) (ps : List Ports),
    s.seq = 0x000#12 → m.length < 2 ^ 58 → MessageIs s m → NoReset ps →
    ps.length = 5 + 200 * blockCount m.length + op.toNat →
    (∃ t, runInputs (presents op 1 (BitVec.ofNat 64 m.length) :: ps) s = .next t ∧
      t.seq = 0x000#12 ∧ t.rspValid = 1#1 ∧ t.rspStatus = .ok ∧ t.phase = .finalized ∧
      memRead t .dg 0 32 = .ok (sm3 Config.used.iv m) ∧
      digestPort t = .ok (BitVec.ofNat 256 (beNat (sm3 Config.used.iv m))) ∧
      (op = 1#1 → memRead t .hx 0 64 = .ok (sm3Hex Config.used.iv m) ∧
        hexPort t = .ok (BitVec.ofNat 512 (beNat (sm3Hex Config.used.iv m)))) ∧
      (op = 0#1 → hexPort t = .error .noResult ∧ ∀ a, t.hx.read a = none)) ∧
    ∀ n, n < ps.length →
      ∃ u, runInputs (presents op 1 (BitVec.ofNat 64 m.length) :: ps.take n) s = .next u ∧ u.seq ≠ 0x000#12

/-- The micro-operations such a run executes, in order, are `HASH` or `HASHX` of its number of blocks. The first entry
is the command where the microprogram has the accepting `WAIT`: the model's reading (DEDUCED, log 4). -/
def Obligations.RunFollowsTheMicroprogram : Prop :=
  ∀ (s : State) (m : List Byte) (ps : List Ports) (l : BitVec 64),
    s.seq = 0x000#12 → m.length < 2 ^ 58 → l = BitVec.ofNat 64 m.length → MessageIs s m → NoReset ps →
    (ps.length = 5 + 200 * blockCount m.length →
      trace (presents 0 1 l :: ps) s = (.compute 1 l :: hashOps (blockCount m.length)).map some) ∧
    (ps.length = 6 + 200 * blockCount m.length →
      trace (presents 1 1 l :: ps) s = (.computeHex 1 l :: hashxOps (blockCount m.length)).map some)

/-- R133: the `PHASE` values of such a run, repetitions dropped, are `Idle, Padded, (Expanded, Compressed) * n,
Finalized`. -/
def Obligations.RunGoesThroughThePhases : Prop :=
  ∀ (s : State) (m : List Byte) (op : BitVec 1) (ps : List Ports),
    s.seq = 0x000#12 → m.length < 2 ^ 58 → MessageIs s m → NoReset ps →
    ps.length = 5 + 200 * blockCount m.length + op.toNat →
    (phases (presents op 1 (BitVec.ofNat 64 m.length) :: ps) s).destutter (· ≠ ·) =
      [.idle, .padded] ++ blockPhases (blockCount m.length) ++ [.finalized]

/-- A command with an absent input, or with a length both readings of `LMAX` refuse, ends after `CHK` with its error:
no result, `PHASE` is `Idle`, and nothing of the datapath is touched. -/
def Obligations.ErroneousCommandEndsAfterChk : Prop :=
  ∀ (s : State) (op p : BitVec 1) (l : BitVec 64) (q : Ports),
    s.seq = 0x000#12 → q.rst = 0#1 → (p = 0#1 ∨ 2 ^ 61 ≤ l.toNat) →
    ∃ t, runInputs [presents op p l, q] s = .next t ∧
      t.rspStatus = (if p = 0#1 then .nullInput else .inputTooLarge) ∧
      t = { s with cmdop := ⟨op, true⟩, pres := ⟨p, true⟩, lreg := ⟨l, true⟩, rspStatus := t.rspStatus,
                   rspValid := 1#1, phase := .idle, dg := [], hx := [], seq := 0x000#12, ports := q }

/-- Nothing of the past shows in a result: from two states at `WAIT` with the same message memory, the same inputs,
the first of them a command, lead to the same response, phase, digest and hexadecimal view whenever the core is back at
`WAIT`. -/
def Obligations.ResultsDoNotDependOnThePast : Prop :=
  ∀ (s1 s2 t1 : State) (op p : BitVec 1) (l : BitVec 64) (ps : List Ports),
    s1.seq = 0x000#12 → s2.seq = 0x000#12 → s1.msg = s2.msg → NoReset ps →
    runInputs (presents op p l :: ps) s1 = .next t1 → t1.seq = 0x000#12 →
    ∃ t2, runInputs (presents op p l :: ps) s2 = .next t2 ∧ t2.seq = 0x000#12 ∧
      t2.rspValid = t1.rspValid ∧ t2.rspStatus = t1.rspStatus ∧ t2.phase = t1.phase ∧ t2.dg = t1.dg ∧ t2.hx = t1.hx ∧
      digestPort t2 = digestPort t1 ∧ hexPort t2 = hexPort t1
end

