-- ==== Sys2Proof/Laws/Memory.lean ====
section
/-! SUPPORT. Memory: a read after a write (R50), the canonical form kept by every operation, and what a read of several
bytes can do. -/

namespace Sys2Proof.Machine

@[simp] theorem Memory.read_nil (a : Nat) : Memory.read [] a = none := rfl

theorem Memory.read_cons (k : Nat) (b : Byte) (m : Memory) (a : Nat) :
    Memory.read ((k, b) :: m) a = if k = a then some b else Memory.read m a := rfl

theorem Memory.read_write_same (m : Memory) (a : Nat) (b : Byte) : (m.write a b).read a = some b := by
  induction m with
  | nil => simp [Memory.write, Memory.read_cons]
  | cons c m ih =>
    obtain ⟨k, c⟩ := c
    simp only [Memory.write]
    split
    · simp [Memory.read_cons]
    · split
      · simp [Memory.read_cons]
      · rw [Memory.read_cons, if_neg (by omega), ih]

theorem Memory.read_write_other (m : Memory) {a a' : Nat} (b : Byte) (h : a' ≠ a) :
    (m.write a b).read a' = m.read a' := by
  induction m with
  | nil => simp [Memory.write, Memory.read_cons, Ne.symm h]
  | cons c m ih =>
    obtain ⟨k, c⟩ := c
    simp only [Memory.write]
    split
    · rw [Memory.read_cons, if_neg (Ne.symm h)]
    · split
      · subst_vars; simp [Memory.read_cons, Ne.symm h]
      · rw [Memory.read_cons, Memory.read_cons, ih]

/-- The addresses a write lists are those listed before and the one written. -/
theorem Memory.mem_write {m : Memory} {a : Nat} {b : Byte} {c : Host.Cell} (h : c ∈ m.write a b) :
    c = (a, b) ∨ c ∈ m := by
  induction m with
  | nil => simpa [Memory.write] using h
  | cons d m ih =>
    obtain ⟨k, d⟩ := d
    simp only [Memory.write] at h
    split at h
    · simpa using h
    · split at h
      · rcases List.mem_cons.1 h with h | h
        · exact .inl h
        · exact .inr (List.mem_cons_of_mem _ h)
      · rcases List.mem_cons.1 h with h | h
        · exact .inr (h ▸ List.mem_cons_self)
        · rcases ih h with h | h
          · exact .inl h
          · exact .inr (List.mem_cons_of_mem _ h)

/-- Writing a byte keeps the canonical form. -/
theorem Memory.write_wf {m : Memory} (a : Nat) (b : Byte) (h : m.wf) : (m.write a b).wf := by
  induction m with
  | nil => simp [Memory.write, Memory.wf]
  | cons c m ih =>
    obtain ⟨k, c⟩ := c
    obtain ⟨hk, hm⟩ := List.pairwise_cons.1 h
    simp only [Memory.write]
    split
    · refine List.pairwise_cons.2 ⟨fun d hd => ?_, h⟩
      rcases List.mem_cons.1 hd with rfl | hd
      · assumption
      · have := hk d hd; simp only at this ⊢; omega
    · split
      · subst_vars; exact List.pairwise_cons.2 ⟨hk, hm⟩
      · refine List.pairwise_cons.2 ⟨fun d hd => ?_, ih hm⟩
        rcases Memory.mem_write hd with rfl | hd
        · simp only; omega
        · exact hk d hd

/-- Writing bytes keeps the canonical form. -/
theorem Memory.writeBytes_wf {m : Memory} (a : Nat) (bs : List Byte) (h : m.wf) : (m.writeBytes a bs).wf := by
  induction bs generalizing m a with
  | nil => exact h
  | cons b bs ih => exact ih (a + 1) (Memory.write_wf a b h)

/-- A listed cell after a write of several bytes was listed before or is one of the bytes written. -/
theorem Memory.mem_writeBytes {m : Memory} {a : Nat} {bs : List Byte} {c : Host.Cell}
    (h : c ∈ m.writeBytes a bs) : (a ≤ c.1 ∧ c.1 < a + bs.length) ∨ c ∈ m := by
  induction bs generalizing m a with
  | nil => exact .inr h
  | cons b bs ih =>
    rcases ih h with ⟨h1, h2⟩ | h
    · exact .inl ⟨by omega, by simp only [List.length_cons]; omega⟩
    · rcases Memory.mem_write h with rfl | h
      · exact .inl ⟨Nat.le_refl _, by simp⟩
      · exact .inr h

/-- What a read finds after bytes were written: the byte written there, or what was there before. -/
theorem Memory.read_writeBytes (m : Memory) (a : Nat) (bs : List Byte) (x : Nat) :
    (m.writeBytes a bs).read x = if a ≤ x ∧ x < a + bs.length then bs[x - a]? else m.read x := by
  induction bs generalizing m a with
  | nil => simp only [Memory.writeBytes, List.length_nil]; rw [if_neg (by omega)]
  | cons b bs ih =>
    rw [Memory.writeBytes, ih, List.length_cons]
    by_cases hx : x = a
    · subst hx
      rw [if_neg (by omega), if_pos (by omega), Memory.read_write_same]
      simp
    · by_cases h : a + 1 ≤ x ∧ x < a + 1 + bs.length
      · rw [if_pos h, if_pos (by omega)]
        obtain ⟨n, rfl⟩ : ∃ n, x = a + 1 + n := ⟨x - (a + 1), by omega⟩
        rw [show a + 1 + n - (a + 1) = n by omega, show a + 1 + n - a = n + 1 by omega, List.getElem?_cons_succ]
      · rw [if_neg h, if_neg (by omega), Memory.read_write_other _ _ hx]

/-- What a read of several bytes can answer: exactly the bytes the single reads give. -/
theorem Memory.readBytes_eq_some {m : Memory} {a n : Nat} {bs : List Byte} :
    m.readBytes a n = some bs ↔ bs.length = n ∧ ∀ t, t < n → m.read (a + t) = bs[t]? := by
  induction n generalizing a bs with
  | zero =>
    simp only [Memory.readBytes, Option.some.injEq]
    constructor
    · rintro rfl; exact ⟨rfl, fun t ht => absurd ht (Nat.not_lt_zero t)⟩
    · rintro ⟨h, -⟩; exact (List.length_eq_zero_iff.1 h).symm
  | succ n ih =>
    rw [Memory.readBytes]
    cases hr : m.read a with
    | none =>
      simp only [reduceCtorEq, false_iff, not_and]
      intro hl h
      have := h 0 (Nat.succ_pos n)
      rw [Nat.add_zero, hr] at this
      have h0 := List.getElem?_eq_none_iff.1 this.symm
      omega
    | some b =>
      cases hb : m.readBytes (a + 1) n with
      | none =>
        simp only [reduceCtorEq, false_iff, not_and]
        intro hl h
        cases bs with
        | nil => simp at hl
        | cons c cs =>
          have : m.readBytes (a + 1) n = some cs := ih.2 ⟨by simpa using hl, fun t ht => by
            have := h (t + 1) (by omega)
            rw [List.getElem?_cons_succ] at this
            rw [← this, Nat.add_assoc, Nat.add_comm 1 t]⟩
          rw [hb] at this
          exact absurd this (by simp)
      | some cs =>
        obtain ⟨hl, hg⟩ := ih.1 hb
        simp only [Option.some.injEq]
        constructor
        · rintro rfl
          refine ⟨by simp [hl], fun t ht => ?_⟩
          cases t with
          | zero => simpa using hr
          | succ t =>
            rw [List.getElem?_cons_succ, ← hg t (by omega), Nat.add_assoc, Nat.add_comm 1 t]
        · rintro ⟨hl', hg'⟩
          cases bs with
          | nil => simp at hl'
          | cons d ds =>
            have h0 : some b = some d := by simpa [hr] using hg' 0 (by omega)
            have hds : m.readBytes (a + 1) n = some ds := ih.2 ⟨by simpa using hl', fun t ht => by
              have := hg' (t + 1) (by omega)
              rw [List.getElem?_cons_succ] at this
              rw [← this, Nat.add_assoc, Nat.add_comm 1 t]⟩
            rw [hb] at hds
            rw [Option.some.inj h0, Option.some.inj hds]

/-- The reset memories are canonical. -/
theorem State.reset_memories_wf :
    State.reset.msg.wf ∧ State.reset.pm.wf ∧ State.reset.blkbuf.wf ∧ State.reset.dg.wf ∧ State.reset.hx.wf := by
  decide

end Sys2Proof.Machine
end

