-- ==== Sys2Proof/Laws/State.lean ====
section
/-! SUPPORT. The fields of an updated state: one lemma per field per update of Machine/Ops.lean, so that no proof
unfolds a record update. -/

namespace Sys2Proof.Machine

@[simp] theorem State.withSeq_regs (s : State) (w : BitVec 12) : (s.withSeq w).regs = s.regs := rfl
@[simp] theorem State.withSeq_saved (s : State) (w : BitVec 12) : (s.withSeq w).saved = s.saved := rfl
@[simp] theorem State.withSeq_xw (s : State) (w : BitVec 12) : (s.withSeq w).xw = s.xw := rfl
@[simp] theorem State.withSeq_len (s : State) (w : BitVec 12) : (s.withSeq w).len = s.len := rfl
@[simp] theorem State.withSeq_nblk (s : State) (w : BitVec 12) : (s.withSeq w).nblk = s.nblk := rfl
@[simp] theorem State.withSeq_blk (s : State) (w : BitVec 12) : (s.withSeq w).blk = s.blk := rfl
@[simp] theorem State.withSeq_cmdop (s : State) (w : BitVec 12) : (s.withSeq w).cmdop = s.cmdop := rfl
@[simp] theorem State.withSeq_pres (s : State) (w : BitVec 12) : (s.withSeq w).pres = s.pres := rfl
@[simp] theorem State.withSeq_lreg (s : State) (w : BitVec 12) : (s.withSeq w).lreg = s.lreg := rfl
@[simp] theorem State.withSeq_phase (s : State) (w : BitVec 12) : (s.withSeq w).phase = s.phase := rfl
@[simp] theorem State.withSeq_seq (s : State) (w : BitVec 12) : (s.withSeq w).seq = w := rfl
@[simp] theorem State.withSeq_rspValid (s : State) (w : BitVec 12) : (s.withSeq w).rspValid = s.rspValid := rfl
@[simp] theorem State.withSeq_rspStatus (s : State) (w : BitVec 12) : (s.withSeq w).rspStatus = s.rspStatus := rfl
@[simp] theorem State.withSeq_msg (s : State) (w : BitVec 12) : (s.withSeq w).msg = s.msg := rfl
@[simp] theorem State.withSeq_pm (s : State) (w : BitVec 12) : (s.withSeq w).pm = s.pm := rfl
@[simp] theorem State.withSeq_blkbuf (s : State) (w : BitVec 12) : (s.withSeq w).blkbuf = s.blkbuf := rfl
@[simp] theorem State.withSeq_dg (s : State) (w : BitVec 12) : (s.withSeq w).dg = s.dg := rfl
@[simp] theorem State.withSeq_hx (s : State) (w : BitVec 12) : (s.withSeq w).hx = s.hx := rfl
@[simp] theorem State.withSeq_ports (s : State) (w : BitVec 12) : (s.withSeq w).ports = s.ports := rfl

@[simp] theorem State.withRegs_regs (s : State) (v : Octet Word) : (s.withRegs v).regs = octetMap Slot.hold v := rfl
@[simp] theorem State.withRegs_saved (s : State) (v : Octet Word) : (s.withRegs v).saved = s.saved := rfl
@[simp] theorem State.withRegs_xw (s : State) (v : Octet Word) : (s.withRegs v).xw = s.xw := rfl
@[simp] theorem State.withRegs_len (s : State) (v : Octet Word) : (s.withRegs v).len = s.len := rfl
@[simp] theorem State.withRegs_nblk (s : State) (v : Octet Word) : (s.withRegs v).nblk = s.nblk := rfl
@[simp] theorem State.withRegs_blk (s : State) (v : Octet Word) : (s.withRegs v).blk = s.blk := rfl
@[simp] theorem State.withRegs_cmdop (s : State) (v : Octet Word) : (s.withRegs v).cmdop = s.cmdop := rfl
@[simp] theorem State.withRegs_pres (s : State) (v : Octet Word) : (s.withRegs v).pres = s.pres := rfl
@[simp] theorem State.withRegs_lreg (s : State) (v : Octet Word) : (s.withRegs v).lreg = s.lreg := rfl
@[simp] theorem State.withRegs_phase (s : State) (v : Octet Word) : (s.withRegs v).phase = s.phase := rfl
@[simp] theorem State.withRegs_seq (s : State) (v : Octet Word) : (s.withRegs v).seq = s.seq := rfl
@[simp] theorem State.withRegs_rspValid (s : State) (v : Octet Word) : (s.withRegs v).rspValid = s.rspValid := rfl
@[simp] theorem State.withRegs_rspStatus (s : State) (v : Octet Word) : (s.withRegs v).rspStatus = s.rspStatus := rfl
@[simp] theorem State.withRegs_msg (s : State) (v : Octet Word) : (s.withRegs v).msg = s.msg := rfl
@[simp] theorem State.withRegs_pm (s : State) (v : Octet Word) : (s.withRegs v).pm = s.pm := rfl
@[simp] theorem State.withRegs_blkbuf (s : State) (v : Octet Word) : (s.withRegs v).blkbuf = s.blkbuf := rfl
@[simp] theorem State.withRegs_dg (s : State) (v : Octet Word) : (s.withRegs v).dg = s.dg := rfl
@[simp] theorem State.withRegs_hx (s : State) (v : Octet Word) : (s.withRegs v).hx = s.hx := rfl
@[simp] theorem State.withRegs_ports (s : State) (v : Octet Word) : (s.withRegs v).ports = s.ports := rfl

@[simp] theorem State.withSaved_regs (s : State) (v : Octet Word) : (s.withSaved v).regs = s.regs := rfl
@[simp] theorem State.withSaved_saved (s : State) (v : Octet Word) : (s.withSaved v).saved = octetMap Slot.hold v := rfl
@[simp] theorem State.withSaved_xw (s : State) (v : Octet Word) : (s.withSaved v).xw = s.xw := rfl
@[simp] theorem State.withSaved_len (s : State) (v : Octet Word) : (s.withSaved v).len = s.len := rfl
@[simp] theorem State.withSaved_nblk (s : State) (v : Octet Word) : (s.withSaved v).nblk = s.nblk := rfl
@[simp] theorem State.withSaved_blk (s : State) (v : Octet Word) : (s.withSaved v).blk = s.blk := rfl
@[simp] theorem State.withSaved_cmdop (s : State) (v : Octet Word) : (s.withSaved v).cmdop = s.cmdop := rfl
@[simp] theorem State.withSaved_pres (s : State) (v : Octet Word) : (s.withSaved v).pres = s.pres := rfl
@[simp] theorem State.withSaved_lreg (s : State) (v : Octet Word) : (s.withSaved v).lreg = s.lreg := rfl
@[simp] theorem State.withSaved_phase (s : State) (v : Octet Word) : (s.withSaved v).phase = s.phase := rfl
@[simp] theorem State.withSaved_seq (s : State) (v : Octet Word) : (s.withSaved v).seq = s.seq := rfl
@[simp] theorem State.withSaved_rspValid (s : State) (v : Octet Word) : (s.withSaved v).rspValid = s.rspValid := rfl
@[simp] theorem State.withSaved_rspStatus (s : State) (v : Octet Word) : (s.withSaved v).rspStatus = s.rspStatus := rfl
@[simp] theorem State.withSaved_msg (s : State) (v : Octet Word) : (s.withSaved v).msg = s.msg := rfl
@[simp] theorem State.withSaved_pm (s : State) (v : Octet Word) : (s.withSaved v).pm = s.pm := rfl
@[simp] theorem State.withSaved_blkbuf (s : State) (v : Octet Word) : (s.withSaved v).blkbuf = s.blkbuf := rfl
@[simp] theorem State.withSaved_dg (s : State) (v : Octet Word) : (s.withSaved v).dg = s.dg := rfl
@[simp] theorem State.withSaved_hx (s : State) (v : Octet Word) : (s.withSaved v).hx = s.hx := rfl
@[simp] theorem State.withSaved_ports (s : State) (v : Octet Word) : (s.withSaved v).ports = s.ports := rfl

@[simp] theorem State.withXw_regs (s : State) (k : Fin 132) (v : Word) : (s.withXw k v).regs = s.regs := rfl
@[simp] theorem State.withXw_saved (s : State) (k : Fin 132) (v : Word) : (s.withXw k v).saved = s.saved := rfl
@[simp] theorem State.withXw_xw (s : State) (k : Fin 132) (v : Word) : (s.withXw k v).xw = s.xw.set k (Slot.hold v) := rfl
@[simp] theorem State.withXw_len (s : State) (k : Fin 132) (v : Word) : (s.withXw k v).len = s.len := rfl
@[simp] theorem State.withXw_nblk (s : State) (k : Fin 132) (v : Word) : (s.withXw k v).nblk = s.nblk := rfl
@[simp] theorem State.withXw_blk (s : State) (k : Fin 132) (v : Word) : (s.withXw k v).blk = s.blk := rfl
@[simp] theorem State.withXw_cmdop (s : State) (k : Fin 132) (v : Word) : (s.withXw k v).cmdop = s.cmdop := rfl
@[simp] theorem State.withXw_pres (s : State) (k : Fin 132) (v : Word) : (s.withXw k v).pres = s.pres := rfl
@[simp] theorem State.withXw_lreg (s : State) (k : Fin 132) (v : Word) : (s.withXw k v).lreg = s.lreg := rfl
@[simp] theorem State.withXw_phase (s : State) (k : Fin 132) (v : Word) : (s.withXw k v).phase = s.phase := rfl
@[simp] theorem State.withXw_seq (s : State) (k : Fin 132) (v : Word) : (s.withXw k v).seq = s.seq := rfl
@[simp] theorem State.withXw_rspValid (s : State) (k : Fin 132) (v : Word) : (s.withXw k v).rspValid = s.rspValid := rfl
@[simp] theorem State.withXw_rspStatus (s : State) (k : Fin 132) (v : Word) : (s.withXw k v).rspStatus = s.rspStatus := rfl
@[simp] theorem State.withXw_msg (s : State) (k : Fin 132) (v : Word) : (s.withXw k v).msg = s.msg := rfl
@[simp] theorem State.withXw_pm (s : State) (k : Fin 132) (v : Word) : (s.withXw k v).pm = s.pm := rfl
@[simp] theorem State.withXw_blkbuf (s : State) (k : Fin 132) (v : Word) : (s.withXw k v).blkbuf = s.blkbuf := rfl
@[simp] theorem State.withXw_dg (s : State) (k : Fin 132) (v : Word) : (s.withXw k v).dg = s.dg := rfl
@[simp] theorem State.withXw_hx (s : State) (k : Fin 132) (v : Word) : (s.withXw k v).hx = s.hx := rfl
@[simp] theorem State.withXw_ports (s : State) (k : Fin 132) (v : Word) : (s.withXw k v).ports = s.ports := rfl

@[simp] theorem State.withLengths_regs (s : State) (l : BitVec 64) (n : BitVec 56) : (s.withLengths l n).regs = s.regs := rfl
@[simp] theorem State.withLengths_saved (s : State) (l : BitVec 64) (n : BitVec 56) : (s.withLengths l n).saved = s.saved := rfl
@[simp] theorem State.withLengths_xw (s : State) (l : BitVec 64) (n : BitVec 56) : (s.withLengths l n).xw = s.xw := rfl
@[simp] theorem State.withLengths_len (s : State) (l : BitVec 64) (n : BitVec 56) : (s.withLengths l n).len = Slot.hold l := rfl
@[simp] theorem State.withLengths_nblk (s : State) (l : BitVec 64) (n : BitVec 56) : (s.withLengths l n).nblk = Slot.hold n := rfl
@[simp] theorem State.withLengths_blk (s : State) (l : BitVec 64) (n : BitVec 56) : (s.withLengths l n).blk = s.blk := rfl
@[simp] theorem State.withLengths_cmdop (s : State) (l : BitVec 64) (n : BitVec 56) : (s.withLengths l n).cmdop = s.cmdop := rfl
@[simp] theorem State.withLengths_pres (s : State) (l : BitVec 64) (n : BitVec 56) : (s.withLengths l n).pres = s.pres := rfl
@[simp] theorem State.withLengths_lreg (s : State) (l : BitVec 64) (n : BitVec 56) : (s.withLengths l n).lreg = s.lreg := rfl
@[simp] theorem State.withLengths_phase (s : State) (l : BitVec 64) (n : BitVec 56) : (s.withLengths l n).phase = s.phase := rfl
@[simp] theorem State.withLengths_seq (s : State) (l : BitVec 64) (n : BitVec 56) : (s.withLengths l n).seq = s.seq := rfl
@[simp] theorem State.withLengths_rspValid (s : State) (l : BitVec 64) (n : BitVec 56) : (s.withLengths l n).rspValid = s.rspValid := rfl
@[simp] theorem State.withLengths_rspStatus (s : State) (l : BitVec 64) (n : BitVec 56) : (s.withLengths l n).rspStatus = s.rspStatus := rfl
@[simp] theorem State.withLengths_msg (s : State) (l : BitVec 64) (n : BitVec 56) : (s.withLengths l n).msg = s.msg := rfl
@[simp] theorem State.withLengths_pm (s : State) (l : BitVec 64) (n : BitVec 56) : (s.withLengths l n).pm = s.pm := rfl
@[simp] theorem State.withLengths_blkbuf (s : State) (l : BitVec 64) (n : BitVec 56) : (s.withLengths l n).blkbuf = s.blkbuf := rfl
@[simp] theorem State.withLengths_dg (s : State) (l : BitVec 64) (n : BitVec 56) : (s.withLengths l n).dg = s.dg := rfl
@[simp] theorem State.withLengths_hx (s : State) (l : BitVec 64) (n : BitVec 56) : (s.withLengths l n).hx = s.hx := rfl
@[simp] theorem State.withLengths_ports (s : State) (l : BitVec 64) (n : BitVec 56) : (s.withLengths l n).ports = s.ports := rfl

@[simp] theorem State.withBlk_regs (s : State) (v : BitVec 56) : (s.withBlk v).regs = s.regs := rfl
@[simp] theorem State.withBlk_saved (s : State) (v : BitVec 56) : (s.withBlk v).saved = s.saved := rfl
@[simp] theorem State.withBlk_xw (s : State) (v : BitVec 56) : (s.withBlk v).xw = s.xw := rfl
@[simp] theorem State.withBlk_len (s : State) (v : BitVec 56) : (s.withBlk v).len = s.len := rfl
@[simp] theorem State.withBlk_nblk (s : State) (v : BitVec 56) : (s.withBlk v).nblk = s.nblk := rfl
@[simp] theorem State.withBlk_blk (s : State) (v : BitVec 56) : (s.withBlk v).blk = Slot.hold v := rfl
@[simp] theorem State.withBlk_cmdop (s : State) (v : BitVec 56) : (s.withBlk v).cmdop = s.cmdop := rfl
@[simp] theorem State.withBlk_pres (s : State) (v : BitVec 56) : (s.withBlk v).pres = s.pres := rfl
@[simp] theorem State.withBlk_lreg (s : State) (v : BitVec 56) : (s.withBlk v).lreg = s.lreg := rfl
@[simp] theorem State.withBlk_phase (s : State) (v : BitVec 56) : (s.withBlk v).phase = s.phase := rfl
@[simp] theorem State.withBlk_seq (s : State) (v : BitVec 56) : (s.withBlk v).seq = s.seq := rfl
@[simp] theorem State.withBlk_rspValid (s : State) (v : BitVec 56) : (s.withBlk v).rspValid = s.rspValid := rfl
@[simp] theorem State.withBlk_rspStatus (s : State) (v : BitVec 56) : (s.withBlk v).rspStatus = s.rspStatus := rfl
@[simp] theorem State.withBlk_msg (s : State) (v : BitVec 56) : (s.withBlk v).msg = s.msg := rfl
@[simp] theorem State.withBlk_pm (s : State) (v : BitVec 56) : (s.withBlk v).pm = s.pm := rfl
@[simp] theorem State.withBlk_blkbuf (s : State) (v : BitVec 56) : (s.withBlk v).blkbuf = s.blkbuf := rfl
@[simp] theorem State.withBlk_dg (s : State) (v : BitVec 56) : (s.withBlk v).dg = s.dg := rfl
@[simp] theorem State.withBlk_hx (s : State) (v : BitVec 56) : (s.withBlk v).hx = s.hx := rfl
@[simp] theorem State.withBlk_ports (s : State) (v : BitVec 56) : (s.withBlk v).ports = s.ports := rfl

@[simp] theorem State.withLatch_regs (s : State) (op p : BitVec 1) (l : BitVec 64) : (s.withLatch op p l).regs = s.regs := rfl
@[simp] theorem State.withLatch_saved (s : State) (op p : BitVec 1) (l : BitVec 64) : (s.withLatch op p l).saved = s.saved := rfl
@[simp] theorem State.withLatch_xw (s : State) (op p : BitVec 1) (l : BitVec 64) : (s.withLatch op p l).xw = s.xw := rfl
@[simp] theorem State.withLatch_len (s : State) (op p : BitVec 1) (l : BitVec 64) : (s.withLatch op p l).len = s.len := rfl
@[simp] theorem State.withLatch_nblk (s : State) (op p : BitVec 1) (l : BitVec 64) : (s.withLatch op p l).nblk = s.nblk := rfl
@[simp] theorem State.withLatch_blk (s : State) (op p : BitVec 1) (l : BitVec 64) : (s.withLatch op p l).blk = s.blk := rfl
@[simp] theorem State.withLatch_cmdop (s : State) (op p : BitVec 1) (l : BitVec 64) : (s.withLatch op p l).cmdop = Slot.hold op := rfl
@[simp] theorem State.withLatch_pres (s : State) (op p : BitVec 1) (l : BitVec 64) : (s.withLatch op p l).pres = Slot.hold p := rfl
@[simp] theorem State.withLatch_lreg (s : State) (op p : BitVec 1) (l : BitVec 64) : (s.withLatch op p l).lreg = Slot.hold l := rfl
@[simp] theorem State.withLatch_phase (s : State) (op p : BitVec 1) (l : BitVec 64) : (s.withLatch op p l).phase = s.phase := rfl
@[simp] theorem State.withLatch_seq (s : State) (op p : BitVec 1) (l : BitVec 64) : (s.withLatch op p l).seq = s.seq := rfl
@[simp] theorem State.withLatch_rspValid (s : State) (op p : BitVec 1) (l : BitVec 64) : (s.withLatch op p l).rspValid = s.rspValid := rfl
@[simp] theorem State.withLatch_rspStatus (s : State) (op p : BitVec 1) (l : BitVec 64) : (s.withLatch op p l).rspStatus = s.rspStatus := rfl
@[simp] theorem State.withLatch_msg (s : State) (op p : BitVec 1) (l : BitVec 64) : (s.withLatch op p l).msg = s.msg := rfl
@[simp] theorem State.withLatch_pm (s : State) (op p : BitVec 1) (l : BitVec 64) : (s.withLatch op p l).pm = s.pm := rfl
@[simp] theorem State.withLatch_blkbuf (s : State) (op p : BitVec 1) (l : BitVec 64) : (s.withLatch op p l).blkbuf = s.blkbuf := rfl
@[simp] theorem State.withLatch_dg (s : State) (op p : BitVec 1) (l : BitVec 64) : (s.withLatch op p l).dg = s.dg := rfl
@[simp] theorem State.withLatch_hx (s : State) (op p : BitVec 1) (l : BitVec 64) : (s.withLatch op p l).hx = s.hx := rfl
@[simp] theorem State.withLatch_ports (s : State) (op p : BitVec 1) (l : BitVec 64) : (s.withLatch op p l).ports = s.ports := rfl

@[simp] theorem State.withPhase_regs (s : State) (p : Phase) : (s.withPhase p).regs = s.regs := rfl
@[simp] theorem State.withPhase_saved (s : State) (p : Phase) : (s.withPhase p).saved = s.saved := rfl
@[simp] theorem State.withPhase_xw (s : State) (p : Phase) : (s.withPhase p).xw = s.xw := rfl
@[simp] theorem State.withPhase_len (s : State) (p : Phase) : (s.withPhase p).len = s.len := rfl
@[simp] theorem State.withPhase_nblk (s : State) (p : Phase) : (s.withPhase p).nblk = s.nblk := rfl
@[simp] theorem State.withPhase_blk (s : State) (p : Phase) : (s.withPhase p).blk = s.blk := rfl
@[simp] theorem State.withPhase_cmdop (s : State) (p : Phase) : (s.withPhase p).cmdop = s.cmdop := rfl
@[simp] theorem State.withPhase_pres (s : State) (p : Phase) : (s.withPhase p).pres = s.pres := rfl
@[simp] theorem State.withPhase_lreg (s : State) (p : Phase) : (s.withPhase p).lreg = s.lreg := rfl
@[simp] theorem State.withPhase_phase (s : State) (p : Phase) : (s.withPhase p).phase = p := rfl
@[simp] theorem State.withPhase_seq (s : State) (p : Phase) : (s.withPhase p).seq = s.seq := rfl
@[simp] theorem State.withPhase_rspValid (s : State) (p : Phase) : (s.withPhase p).rspValid = s.rspValid := rfl
@[simp] theorem State.withPhase_rspStatus (s : State) (p : Phase) : (s.withPhase p).rspStatus = s.rspStatus := rfl
@[simp] theorem State.withPhase_msg (s : State) (p : Phase) : (s.withPhase p).msg = s.msg := rfl
@[simp] theorem State.withPhase_pm (s : State) (p : Phase) : (s.withPhase p).pm = s.pm := rfl
@[simp] theorem State.withPhase_blkbuf (s : State) (p : Phase) : (s.withPhase p).blkbuf = s.blkbuf := rfl
@[simp] theorem State.withPhase_dg (s : State) (p : Phase) : (s.withPhase p).dg = s.dg := rfl
@[simp] theorem State.withPhase_hx (s : State) (p : Phase) : (s.withPhase p).hx = s.hx := rfl
@[simp] theorem State.withPhase_ports (s : State) (p : Phase) : (s.withPhase p).ports = s.ports := rfl

@[simp] theorem State.withRspValid_regs (s : State) (v : BitVec 1) : (s.withRspValid v).regs = s.regs := rfl
@[simp] theorem State.withRspValid_saved (s : State) (v : BitVec 1) : (s.withRspValid v).saved = s.saved := rfl
@[simp] theorem State.withRspValid_xw (s : State) (v : BitVec 1) : (s.withRspValid v).xw = s.xw := rfl
@[simp] theorem State.withRspValid_len (s : State) (v : BitVec 1) : (s.withRspValid v).len = s.len := rfl
@[simp] theorem State.withRspValid_nblk (s : State) (v : BitVec 1) : (s.withRspValid v).nblk = s.nblk := rfl
@[simp] theorem State.withRspValid_blk (s : State) (v : BitVec 1) : (s.withRspValid v).blk = s.blk := rfl
@[simp] theorem State.withRspValid_cmdop (s : State) (v : BitVec 1) : (s.withRspValid v).cmdop = s.cmdop := rfl
@[simp] theorem State.withRspValid_pres (s : State) (v : BitVec 1) : (s.withRspValid v).pres = s.pres := rfl
@[simp] theorem State.withRspValid_lreg (s : State) (v : BitVec 1) : (s.withRspValid v).lreg = s.lreg := rfl
@[simp] theorem State.withRspValid_phase (s : State) (v : BitVec 1) : (s.withRspValid v).phase = s.phase := rfl
@[simp] theorem State.withRspValid_seq (s : State) (v : BitVec 1) : (s.withRspValid v).seq = s.seq := rfl
@[simp] theorem State.withRspValid_rspValid (s : State) (v : BitVec 1) : (s.withRspValid v).rspValid = v := rfl
@[simp] theorem State.withRspValid_rspStatus (s : State) (v : BitVec 1) : (s.withRspValid v).rspStatus = s.rspStatus := rfl
@[simp] theorem State.withRspValid_msg (s : State) (v : BitVec 1) : (s.withRspValid v).msg = s.msg := rfl
@[simp] theorem State.withRspValid_pm (s : State) (v : BitVec 1) : (s.withRspValid v).pm = s.pm := rfl
@[simp] theorem State.withRspValid_blkbuf (s : State) (v : BitVec 1) : (s.withRspValid v).blkbuf = s.blkbuf := rfl
@[simp] theorem State.withRspValid_dg (s : State) (v : BitVec 1) : (s.withRspValid v).dg = s.dg := rfl
@[simp] theorem State.withRspValid_hx (s : State) (v : BitVec 1) : (s.withRspValid v).hx = s.hx := rfl
@[simp] theorem State.withRspValid_ports (s : State) (v : BitVec 1) : (s.withRspValid v).ports = s.ports := rfl

@[simp] theorem State.withRspStatus_regs (s : State) (st : Status) : (s.withRspStatus st).regs = s.regs := rfl
@[simp] theorem State.withRspStatus_saved (s : State) (st : Status) : (s.withRspStatus st).saved = s.saved := rfl
@[simp] theorem State.withRspStatus_xw (s : State) (st : Status) : (s.withRspStatus st).xw = s.xw := rfl
@[simp] theorem State.withRspStatus_len (s : State) (st : Status) : (s.withRspStatus st).len = s.len := rfl
@[simp] theorem State.withRspStatus_nblk (s : State) (st : Status) : (s.withRspStatus st).nblk = s.nblk := rfl
@[simp] theorem State.withRspStatus_blk (s : State) (st : Status) : (s.withRspStatus st).blk = s.blk := rfl
@[simp] theorem State.withRspStatus_cmdop (s : State) (st : Status) : (s.withRspStatus st).cmdop = s.cmdop := rfl
@[simp] theorem State.withRspStatus_pres (s : State) (st : Status) : (s.withRspStatus st).pres = s.pres := rfl
@[simp] theorem State.withRspStatus_lreg (s : State) (st : Status) : (s.withRspStatus st).lreg = s.lreg := rfl
@[simp] theorem State.withRspStatus_phase (s : State) (st : Status) : (s.withRspStatus st).phase = s.phase := rfl
@[simp] theorem State.withRspStatus_seq (s : State) (st : Status) : (s.withRspStatus st).seq = s.seq := rfl
@[simp] theorem State.withRspStatus_rspValid (s : State) (st : Status) : (s.withRspStatus st).rspValid = s.rspValid := rfl
@[simp] theorem State.withRspStatus_rspStatus (s : State) (st : Status) : (s.withRspStatus st).rspStatus = st := rfl
@[simp] theorem State.withRspStatus_msg (s : State) (st : Status) : (s.withRspStatus st).msg = s.msg := rfl
@[simp] theorem State.withRspStatus_pm (s : State) (st : Status) : (s.withRspStatus st).pm = s.pm := rfl
@[simp] theorem State.withRspStatus_blkbuf (s : State) (st : Status) : (s.withRspStatus st).blkbuf = s.blkbuf := rfl
@[simp] theorem State.withRspStatus_dg (s : State) (st : Status) : (s.withRspStatus st).dg = s.dg := rfl
@[simp] theorem State.withRspStatus_hx (s : State) (st : Status) : (s.withRspStatus st).hx = s.hx := rfl
@[simp] theorem State.withRspStatus_ports (s : State) (st : Status) : (s.withRspStatus st).ports = s.ports := rfl

@[simp] theorem State.withMsg_regs (s : State) (m : Memory) : (s.withMsg m).regs = s.regs := rfl
@[simp] theorem State.withMsg_saved (s : State) (m : Memory) : (s.withMsg m).saved = s.saved := rfl
@[simp] theorem State.withMsg_xw (s : State) (m : Memory) : (s.withMsg m).xw = s.xw := rfl
@[simp] theorem State.withMsg_len (s : State) (m : Memory) : (s.withMsg m).len = s.len := rfl
@[simp] theorem State.withMsg_nblk (s : State) (m : Memory) : (s.withMsg m).nblk = s.nblk := rfl
@[simp] theorem State.withMsg_blk (s : State) (m : Memory) : (s.withMsg m).blk = s.blk := rfl
@[simp] theorem State.withMsg_cmdop (s : State) (m : Memory) : (s.withMsg m).cmdop = s.cmdop := rfl
@[simp] theorem State.withMsg_pres (s : State) (m : Memory) : (s.withMsg m).pres = s.pres := rfl
@[simp] theorem State.withMsg_lreg (s : State) (m : Memory) : (s.withMsg m).lreg = s.lreg := rfl
@[simp] theorem State.withMsg_phase (s : State) (m : Memory) : (s.withMsg m).phase = s.phase := rfl
@[simp] theorem State.withMsg_seq (s : State) (m : Memory) : (s.withMsg m).seq = s.seq := rfl
@[simp] theorem State.withMsg_rspValid (s : State) (m : Memory) : (s.withMsg m).rspValid = s.rspValid := rfl
@[simp] theorem State.withMsg_rspStatus (s : State) (m : Memory) : (s.withMsg m).rspStatus = s.rspStatus := rfl
@[simp] theorem State.withMsg_msg (s : State) (m : Memory) : (s.withMsg m).msg = m := rfl
@[simp] theorem State.withMsg_pm (s : State) (m : Memory) : (s.withMsg m).pm = s.pm := rfl
@[simp] theorem State.withMsg_blkbuf (s : State) (m : Memory) : (s.withMsg m).blkbuf = s.blkbuf := rfl
@[simp] theorem State.withMsg_dg (s : State) (m : Memory) : (s.withMsg m).dg = s.dg := rfl
@[simp] theorem State.withMsg_hx (s : State) (m : Memory) : (s.withMsg m).hx = s.hx := rfl
@[simp] theorem State.withMsg_ports (s : State) (m : Memory) : (s.withMsg m).ports = s.ports := rfl

@[simp] theorem State.withPm_regs (s : State) (m : Memory) : (s.withPm m).regs = s.regs := rfl
@[simp] theorem State.withPm_saved (s : State) (m : Memory) : (s.withPm m).saved = s.saved := rfl
@[simp] theorem State.withPm_xw (s : State) (m : Memory) : (s.withPm m).xw = s.xw := rfl
@[simp] theorem State.withPm_len (s : State) (m : Memory) : (s.withPm m).len = s.len := rfl
@[simp] theorem State.withPm_nblk (s : State) (m : Memory) : (s.withPm m).nblk = s.nblk := rfl
@[simp] theorem State.withPm_blk (s : State) (m : Memory) : (s.withPm m).blk = s.blk := rfl
@[simp] theorem State.withPm_cmdop (s : State) (m : Memory) : (s.withPm m).cmdop = s.cmdop := rfl
@[simp] theorem State.withPm_pres (s : State) (m : Memory) : (s.withPm m).pres = s.pres := rfl
@[simp] theorem State.withPm_lreg (s : State) (m : Memory) : (s.withPm m).lreg = s.lreg := rfl
@[simp] theorem State.withPm_phase (s : State) (m : Memory) : (s.withPm m).phase = s.phase := rfl
@[simp] theorem State.withPm_seq (s : State) (m : Memory) : (s.withPm m).seq = s.seq := rfl
@[simp] theorem State.withPm_rspValid (s : State) (m : Memory) : (s.withPm m).rspValid = s.rspValid := rfl
@[simp] theorem State.withPm_rspStatus (s : State) (m : Memory) : (s.withPm m).rspStatus = s.rspStatus := rfl
@[simp] theorem State.withPm_msg (s : State) (m : Memory) : (s.withPm m).msg = s.msg := rfl
@[simp] theorem State.withPm_pm (s : State) (m : Memory) : (s.withPm m).pm = m := rfl
@[simp] theorem State.withPm_blkbuf (s : State) (m : Memory) : (s.withPm m).blkbuf = s.blkbuf := rfl
@[simp] theorem State.withPm_dg (s : State) (m : Memory) : (s.withPm m).dg = s.dg := rfl
@[simp] theorem State.withPm_hx (s : State) (m : Memory) : (s.withPm m).hx = s.hx := rfl
@[simp] theorem State.withPm_ports (s : State) (m : Memory) : (s.withPm m).ports = s.ports := rfl

@[simp] theorem State.withBlkbuf_regs (s : State) (m : Memory) : (s.withBlkbuf m).regs = s.regs := rfl
@[simp] theorem State.withBlkbuf_saved (s : State) (m : Memory) : (s.withBlkbuf m).saved = s.saved := rfl
@[simp] theorem State.withBlkbuf_xw (s : State) (m : Memory) : (s.withBlkbuf m).xw = s.xw := rfl
@[simp] theorem State.withBlkbuf_len (s : State) (m : Memory) : (s.withBlkbuf m).len = s.len := rfl
@[simp] theorem State.withBlkbuf_nblk (s : State) (m : Memory) : (s.withBlkbuf m).nblk = s.nblk := rfl
@[simp] theorem State.withBlkbuf_blk (s : State) (m : Memory) : (s.withBlkbuf m).blk = s.blk := rfl
@[simp] theorem State.withBlkbuf_cmdop (s : State) (m : Memory) : (s.withBlkbuf m).cmdop = s.cmdop := rfl
@[simp] theorem State.withBlkbuf_pres (s : State) (m : Memory) : (s.withBlkbuf m).pres = s.pres := rfl
@[simp] theorem State.withBlkbuf_lreg (s : State) (m : Memory) : (s.withBlkbuf m).lreg = s.lreg := rfl
@[simp] theorem State.withBlkbuf_phase (s : State) (m : Memory) : (s.withBlkbuf m).phase = s.phase := rfl
@[simp] theorem State.withBlkbuf_seq (s : State) (m : Memory) : (s.withBlkbuf m).seq = s.seq := rfl
@[simp] theorem State.withBlkbuf_rspValid (s : State) (m : Memory) : (s.withBlkbuf m).rspValid = s.rspValid := rfl
@[simp] theorem State.withBlkbuf_rspStatus (s : State) (m : Memory) : (s.withBlkbuf m).rspStatus = s.rspStatus := rfl
@[simp] theorem State.withBlkbuf_msg (s : State) (m : Memory) : (s.withBlkbuf m).msg = s.msg := rfl
@[simp] theorem State.withBlkbuf_pm (s : State) (m : Memory) : (s.withBlkbuf m).pm = s.pm := rfl
@[simp] theorem State.withBlkbuf_blkbuf (s : State) (m : Memory) : (s.withBlkbuf m).blkbuf = m := rfl
@[simp] theorem State.withBlkbuf_dg (s : State) (m : Memory) : (s.withBlkbuf m).dg = s.dg := rfl
@[simp] theorem State.withBlkbuf_hx (s : State) (m : Memory) : (s.withBlkbuf m).hx = s.hx := rfl
@[simp] theorem State.withBlkbuf_ports (s : State) (m : Memory) : (s.withBlkbuf m).ports = s.ports := rfl

@[simp] theorem State.withDg_regs (s : State) (m : Memory) : (s.withDg m).regs = s.regs := rfl
@[simp] theorem State.withDg_saved (s : State) (m : Memory) : (s.withDg m).saved = s.saved := rfl
@[simp] theorem State.withDg_xw (s : State) (m : Memory) : (s.withDg m).xw = s.xw := rfl
@[simp] theorem State.withDg_len (s : State) (m : Memory) : (s.withDg m).len = s.len := rfl
@[simp] theorem State.withDg_nblk (s : State) (m : Memory) : (s.withDg m).nblk = s.nblk := rfl
@[simp] theorem State.withDg_blk (s : State) (m : Memory) : (s.withDg m).blk = s.blk := rfl
@[simp] theorem State.withDg_cmdop (s : State) (m : Memory) : (s.withDg m).cmdop = s.cmdop := rfl
@[simp] theorem State.withDg_pres (s : State) (m : Memory) : (s.withDg m).pres = s.pres := rfl
@[simp] theorem State.withDg_lreg (s : State) (m : Memory) : (s.withDg m).lreg = s.lreg := rfl
@[simp] theorem State.withDg_phase (s : State) (m : Memory) : (s.withDg m).phase = s.phase := rfl
@[simp] theorem State.withDg_seq (s : State) (m : Memory) : (s.withDg m).seq = s.seq := rfl
@[simp] theorem State.withDg_rspValid (s : State) (m : Memory) : (s.withDg m).rspValid = s.rspValid := rfl
@[simp] theorem State.withDg_rspStatus (s : State) (m : Memory) : (s.withDg m).rspStatus = s.rspStatus := rfl
@[simp] theorem State.withDg_msg (s : State) (m : Memory) : (s.withDg m).msg = s.msg := rfl
@[simp] theorem State.withDg_pm (s : State) (m : Memory) : (s.withDg m).pm = s.pm := rfl
@[simp] theorem State.withDg_blkbuf (s : State) (m : Memory) : (s.withDg m).blkbuf = s.blkbuf := rfl
@[simp] theorem State.withDg_dg (s : State) (m : Memory) : (s.withDg m).dg = m := rfl
@[simp] theorem State.withDg_hx (s : State) (m : Memory) : (s.withDg m).hx = s.hx := rfl
@[simp] theorem State.withDg_ports (s : State) (m : Memory) : (s.withDg m).ports = s.ports := rfl

@[simp] theorem State.withHx_regs (s : State) (m : Memory) : (s.withHx m).regs = s.regs := rfl
@[simp] theorem State.withHx_saved (s : State) (m : Memory) : (s.withHx m).saved = s.saved := rfl
@[simp] theorem State.withHx_xw (s : State) (m : Memory) : (s.withHx m).xw = s.xw := rfl
@[simp] theorem State.withHx_len (s : State) (m : Memory) : (s.withHx m).len = s.len := rfl
@[simp] theorem State.withHx_nblk (s : State) (m : Memory) : (s.withHx m).nblk = s.nblk := rfl
@[simp] theorem State.withHx_blk (s : State) (m : Memory) : (s.withHx m).blk = s.blk := rfl
@[simp] theorem State.withHx_cmdop (s : State) (m : Memory) : (s.withHx m).cmdop = s.cmdop := rfl
@[simp] theorem State.withHx_pres (s : State) (m : Memory) : (s.withHx m).pres = s.pres := rfl
@[simp] theorem State.withHx_lreg (s : State) (m : Memory) : (s.withHx m).lreg = s.lreg := rfl
@[simp] theorem State.withHx_phase (s : State) (m : Memory) : (s.withHx m).phase = s.phase := rfl
@[simp] theorem State.withHx_seq (s : State) (m : Memory) : (s.withHx m).seq = s.seq := rfl
@[simp] theorem State.withHx_rspValid (s : State) (m : Memory) : (s.withHx m).rspValid = s.rspValid := rfl
@[simp] theorem State.withHx_rspStatus (s : State) (m : Memory) : (s.withHx m).rspStatus = s.rspStatus := rfl
@[simp] theorem State.withHx_msg (s : State) (m : Memory) : (s.withHx m).msg = s.msg := rfl
@[simp] theorem State.withHx_pm (s : State) (m : Memory) : (s.withHx m).pm = s.pm := rfl
@[simp] theorem State.withHx_blkbuf (s : State) (m : Memory) : (s.withHx m).blkbuf = s.blkbuf := rfl
@[simp] theorem State.withHx_dg (s : State) (m : Memory) : (s.withHx m).dg = s.dg := rfl
@[simp] theorem State.withHx_hx (s : State) (m : Memory) : (s.withHx m).hx = m := rfl
@[simp] theorem State.withHx_ports (s : State) (m : Memory) : (s.withHx m).ports = s.ports := rfl

@[simp] theorem State.withPorts_regs (s : State) (p : Ports) : (s.withPorts p).regs = s.regs := rfl
@[simp] theorem State.withPorts_saved (s : State) (p : Ports) : (s.withPorts p).saved = s.saved := rfl
@[simp] theorem State.withPorts_xw (s : State) (p : Ports) : (s.withPorts p).xw = s.xw := rfl
@[simp] theorem State.withPorts_len (s : State) (p : Ports) : (s.withPorts p).len = s.len := rfl
@[simp] theorem State.withPorts_nblk (s : State) (p : Ports) : (s.withPorts p).nblk = s.nblk := rfl
@[simp] theorem State.withPorts_blk (s : State) (p : Ports) : (s.withPorts p).blk = s.blk := rfl
@[simp] theorem State.withPorts_cmdop (s : State) (p : Ports) : (s.withPorts p).cmdop = s.cmdop := rfl
@[simp] theorem State.withPorts_pres (s : State) (p : Ports) : (s.withPorts p).pres = s.pres := rfl
@[simp] theorem State.withPorts_lreg (s : State) (p : Ports) : (s.withPorts p).lreg = s.lreg := rfl
@[simp] theorem State.withPorts_phase (s : State) (p : Ports) : (s.withPorts p).phase = s.phase := rfl
@[simp] theorem State.withPorts_seq (s : State) (p : Ports) : (s.withPorts p).seq = s.seq := rfl
@[simp] theorem State.withPorts_rspValid (s : State) (p : Ports) : (s.withPorts p).rspValid = s.rspValid := rfl
@[simp] theorem State.withPorts_rspStatus (s : State) (p : Ports) : (s.withPorts p).rspStatus = s.rspStatus := rfl
@[simp] theorem State.withPorts_msg (s : State) (p : Ports) : (s.withPorts p).msg = s.msg := rfl
@[simp] theorem State.withPorts_pm (s : State) (p : Ports) : (s.withPorts p).pm = s.pm := rfl
@[simp] theorem State.withPorts_blkbuf (s : State) (p : Ports) : (s.withPorts p).blkbuf = s.blkbuf := rfl
@[simp] theorem State.withPorts_dg (s : State) (p : Ports) : (s.withPorts p).dg = s.dg := rfl
@[simp] theorem State.withPorts_hx (s : State) (p : Ports) : (s.withPorts p).hx = s.hx := rfl
@[simp] theorem State.withPorts_ports (s : State) (p : Ports) : (s.withPorts p).ports = p := rfl

@[simp] theorem applyReset_regs (s : State) : (applyReset s).regs = State.reset.regs := rfl
@[simp] theorem applyReset_saved (s : State) : (applyReset s).saved = State.reset.saved := rfl
@[simp] theorem applyReset_xw (s : State) : (applyReset s).xw = State.reset.xw := rfl
@[simp] theorem applyReset_len (s : State) : (applyReset s).len = State.reset.len := rfl
@[simp] theorem applyReset_nblk (s : State) : (applyReset s).nblk = State.reset.nblk := rfl
@[simp] theorem applyReset_blk (s : State) : (applyReset s).blk = State.reset.blk := rfl
@[simp] theorem applyReset_cmdop (s : State) : (applyReset s).cmdop = State.reset.cmdop := rfl
@[simp] theorem applyReset_pres (s : State) : (applyReset s).pres = State.reset.pres := rfl
@[simp] theorem applyReset_lreg (s : State) : (applyReset s).lreg = State.reset.lreg := rfl
@[simp] theorem applyReset_phase (s : State) : (applyReset s).phase = State.reset.phase := rfl
@[simp] theorem applyReset_seq (s : State) : (applyReset s).seq = State.reset.seq := rfl
@[simp] theorem applyReset_rspValid (s : State) : (applyReset s).rspValid = State.reset.rspValid := rfl
@[simp] theorem applyReset_rspStatus (s : State) : (applyReset s).rspStatus = State.reset.rspStatus := rfl
@[simp] theorem applyReset_msg (s : State) : (applyReset s).msg = s.msg := rfl
@[simp] theorem applyReset_pm (s : State) : (applyReset s).pm = State.reset.pm := rfl
@[simp] theorem applyReset_blkbuf (s : State) : (applyReset s).blkbuf = State.reset.blkbuf := rfl
@[simp] theorem applyReset_dg (s : State) : (applyReset s).dg = State.reset.dg := rfl
@[simp] theorem applyReset_hx (s : State) : (applyReset s).hx = State.reset.hx := rfl
@[simp] theorem applyReset_ports (s : State) : (applyReset s).ports = s.ports := rfl

@[simp] theorem Slot.hold_value {w : Nat} (v : BitVec w) : (Slot.hold v).value = v := rfl
@[simp] theorem Slot.hold_held {w : Nat} (v : BitVec w) : (Slot.hold v).held = true := rfl

end Sys2Proof.Machine
end

