-- ==== Sys2Proof/Laws/Ops.lean ====
section
/-! SUPPORT. What each shared operation can do, said once. -/

namespace Sys2Proof.Machine

/-- `memRead` answers bytes only inside the space, and then exactly the bytes single reads give. -/
theorem memRead_eq_ok {s : State} {sp : Space} {a n : Nat} {bs : List Byte} :
    memRead s sp a n = .ok bs ↔
      a + n ≤ s.size sp ∧ bs.length = n ∧ ∀ t, t < n → (s.space sp).read (a + t) = bs[t]? := by
  rw [memRead]
  split
  · cases h : (s.space sp).readBytes a n with
    | none =>
      simp only [reduceCtorEq, false_iff, not_and]
      intro _ hl hg
      have := Memory.readBytes_eq_some.2 ⟨hl, hg⟩
      rw [h] at this
      exact absurd this (by simp)
    | some cs =>
      simp only [Except.ok.injEq]
      constructor
      · rintro rfl; exact ⟨‹_›, Memory.readBytes_eq_some.1 h⟩
      · rintro ⟨_, hl, hg⟩
        exact Option.some.inj (h.symm.trans (Memory.readBytes_eq_some.2 ⟨hl, hg⟩))
  · simp only [reduceCtorEq, false_iff, not_and]; intro h; omega

/-- `memRead` stops only with one of its two faults. -/
theorem memRead_eq_error {s : State} {sp : Space} {a n : Nat} {f : Fault} (h : memRead s sp a n = .error f) :
    f = .noValue sp ∨ f = .noSuchAddress sp := by
  rw [memRead] at h
  split at h
  · split at h
    · cases h
    · cases h; exact .inl rfl
  · cases h; exact .inr rfl

/-- `raise` changes the response and `SEQ`, nothing else (R141). -/
theorem raise_eq (e : HashError) (s : State) :
    raise e s = { s with rspStatus := e.status, rspValid := 1, seq := 0x000 } := rfl

/-- `accept` writes the latch, clears the response, discards the result and goes to `CHK` (R125). -/
theorem accept_eq (op p : BitVec 1) (l : BitVec 64) (s : State) :
    accept op p l s = { s with cmdop := ⟨op, true⟩, pres := ⟨p, true⟩, lreg := ⟨l, true⟩, rspValid := 0,
                               phase := .idle, dg := [], hx := [], seq := 0x100 } := rfl

/-- A presented command is accepted while ready and ignored while busy (R125, R135). -/
theorem command_cases (op p : BitVec 1) (l : BitVec 64) (s : State) :
    (cmdReady s = 1#1 ∧ command op p l s = accept op p l s) ∨ (cmdReady s ≠ 1#1 ∧ command op p l s = s) := by
  by_cases h : cmdReady s = 1#1
  · exact .inl ⟨h, if_pos h⟩
  · exact .inr ⟨h, if_neg h⟩

/-- The three ways a step can go: reset, a refused control word, or the fetched instruction. -/
theorem step_cases (s : State) :
    (s.ports.rst = 1#1 ∧ step s = .next (applyReset s)) ∨
    (s.ports.rst ≠ 1#1 ∧ ∃ r, fetch s = .error r ∧ step s = .refused r) ∨
    (s.ports.rst ≠ 1#1 ∧ ∃ i, fetch s = .ok i ∧ step s = exec i s) := by
  by_cases h : s.ports.rst = 1#1
  · exact .inl ⟨h, by simp [step, h]⟩
  · cases hf : fetch s with
    | error r => exact .inr (.inl ⟨h, r, rfl, by simp [step, h, hf]⟩)
    | ok i => exact .inr (.inr ⟨h, i, rfl, by simp [step, h, hf]⟩)

/-- Setting the ports touches no space. -/
@[simp] theorem State.withPorts_space (s : State) (p : Ports) (sp : Space) :
    (s.withPorts p).space sp = s.space sp := by cases sp <;> rfl

/-- Setting the ports changes no size. -/
@[simp] theorem State.withPorts_size (s : State) (p : Ports) (sp : Space) :
    (s.withPorts p).size sp = s.size sp := by cases sp <;> rfl

/-- A read does not depend on the ports. -/
@[simp] theorem memRead_withPorts (s : State) (p : Ports) (sp : Space) (a n : Nat) :
    memRead (s.withPorts p) sp a n = memRead s sp a n := by
  simp [memRead]

end Sys2Proof.Machine
end

