-- ==== Sys2Proof/Laws/Agree.lean ====
section
/-! SUPPORT. States that agree where something is written: equality of held elements, and the same reads of memory. -/

namespace Sys2Proof.Machine

theorem Slot.agree_refl {w : Nat} (x : Slot w) : x.agree x := ⟨rfl, fun _ => rfl⟩

/-- An element that holds a value is equal to one that agrees with it. -/
theorem Slot.agree_eq {w : Nat} {x y : Slot w} (h : x.agree y) (hx : x.held = true) : x = y := by
  cases x; cases y
  obtain ⟨h1, h2⟩ := h
  simp only at h1 h2 hx
  rw [h1, h2 hx]

/-- Eight elements that hold values are equal to eight that agree with them. -/
theorem OctetAgree.eq {x y : Octet (Slot 32)} (h : OctetAgree x y) (hx : octetHeld x) : x = y := by
  cases x; cases y
  obtain ⟨ha, hb, hc, hd, he, hf, hg, hh⟩ := h
  simp only [octetHeld, octetList, List.mem_cons, List.not_mem_nil, or_false, forall_eq_or_imp, forall_eq] at hx
  obtain ⟨xa, xb, xc, xd, xe, xf, xg, xh⟩ := hx
  simp only [Octet.mk.injEq]
  exact ⟨Slot.agree_eq ha xa, Slot.agree_eq hb xb, Slot.agree_eq hc xc, Slot.agree_eq hd xd, Slot.agree_eq he xe,
    Slot.agree_eq hf xf, Slot.agree_eq hg xg, Slot.agree_eq hh xh⟩

theorem OctetAgree.refl (x : Octet (Slot 32)) : OctetAgree x x :=
  ⟨Slot.agree_refl _, Slot.agree_refl _, Slot.agree_refl _, Slot.agree_refl _, Slot.agree_refl _, Slot.agree_refl _,
   Slot.agree_refl _, Slot.agree_refl _⟩

theorem AgreeWhereWritten.refl (s : State) : AgreeWhereWritten s s :=
  ⟨OctetAgree.refl _, OctetAgree.refl _, fun _ => Slot.agree_refl _, Slot.agree_refl _, Slot.agree_refl _,
   Slot.agree_refl _, Slot.agree_refl _, Slot.agree_refl _, Slot.agree_refl _, rfl, rfl, rfl, rfl, rfl, rfl, rfl, rfl,
   rfl, rfl⟩

/-- The next instruction does not depend on elements that hold no value. -/
theorem fetch_agree {s t : State} (h : AgreeWhereWritten s t) : fetch t = fetch s := by
  simp only [fetch, nextWord, portWord, h.seq, h.ports]

/-- Neither does a read of memory, but for the size of `PM`, which is `NBLK`'s. -/
theorem memRead_agree {s t : State} (h : AgreeWhereWritten s t) (sp : Space) (hn : sp = .pm → s.nblk.held = true)
    (a n : Nat) : memRead t sp a n = memRead s sp a n := by
  have hs : t.space sp = s.space sp := by
    cases sp <;> simp only [State.space, h.msg, h.pm, h.blkbuf, h.dg, h.hx]
  have hz : t.size sp = s.size sp := by
    cases sp <;> simp only [State.size]
    rw [Slot.agree_eq h.nblk (hn rfl)]
  rw [memRead, memRead, hs, hz]

/-! Updates keep agreement: writing the same value, or agreeing parts, on both sides. -/

theorem AgreeWhereWritten.withSeq {s t : State} (h : AgreeWhereWritten s t) (w : BitVec 12) :
    AgreeWhereWritten (s.withSeq w) (t.withSeq w) := { h with seq := rfl }

theorem AgreeWhereWritten.withRegs {s t : State} (h : AgreeWhereWritten s t) (v : Octet Word) :
    AgreeWhereWritten (s.withRegs v) (t.withRegs v) := { h with regs := OctetAgree.refl _ }

theorem AgreeWhereWritten.withSaved {s t : State} (h : AgreeWhereWritten s t) (v : Octet Word) :
    AgreeWhereWritten (s.withSaved v) (t.withSaved v) := { h with saved := OctetAgree.refl _ }

theorem AgreeWhereWritten.withXw {s t : State} (h : AgreeWhereWritten s t) (k : Fin 132) (v : Word) :
    AgreeWhereWritten (s.withXw k v) (t.withXw k v) :=
  { h with
    xw := fun n => by
      simp only [State.withXw, Fin.getElem_fin, Vector.getElem_set]
      split
      · exact Slot.agree_refl _
      · exact h.xw n }

theorem AgreeWhereWritten.withLengths {s t : State} (h : AgreeWhereWritten s t) (l : BitVec 64) (n : BitVec 56) :
    AgreeWhereWritten (s.withLengths l n) (t.withLengths l n) :=
  { h with len := Slot.agree_refl _, nblk := Slot.agree_refl _ }

theorem AgreeWhereWritten.withBlk {s t : State} (h : AgreeWhereWritten s t) (v : BitVec 56) :
    AgreeWhereWritten (s.withBlk v) (t.withBlk v) := { h with blk := Slot.agree_refl _ }

theorem AgreeWhereWritten.withLatch {s t : State} (h : AgreeWhereWritten s t) (op p : BitVec 1) (l : BitVec 64) :
    AgreeWhereWritten (s.withLatch op p l) (t.withLatch op p l) :=
  { h with cmdop := Slot.agree_refl _, pres := Slot.agree_refl _, lreg := Slot.agree_refl _ }

theorem AgreeWhereWritten.withPhase {s t : State} (h : AgreeWhereWritten s t) (p : Phase) :
    AgreeWhereWritten (s.withPhase p) (t.withPhase p) := { h with phase := rfl }

theorem AgreeWhereWritten.withRspValid {s t : State} (h : AgreeWhereWritten s t) (v : BitVec 1) :
    AgreeWhereWritten (s.withRspValid v) (t.withRspValid v) := { h with rspValid := rfl }

theorem AgreeWhereWritten.withRspStatus {s t : State} (h : AgreeWhereWritten s t) (st : Status) :
    AgreeWhereWritten (s.withRspStatus st) (t.withRspStatus st) := { h with rspStatus := rfl }

theorem AgreeWhereWritten.withPm {s t : State} (h : AgreeWhereWritten s t) (m : Memory) :
    AgreeWhereWritten (s.withPm m) (t.withPm m) := { h with pm := rfl }

theorem AgreeWhereWritten.withBlkbuf {s t : State} (h : AgreeWhereWritten s t) (m : Memory) :
    AgreeWhereWritten (s.withBlkbuf m) (t.withBlkbuf m) := { h with blkbuf := rfl }

theorem AgreeWhereWritten.withDg {s t : State} (h : AgreeWhereWritten s t) (m : Memory) :
    AgreeWhereWritten (s.withDg m) (t.withDg m) := { h with dg := rfl }

theorem AgreeWhereWritten.withHx {s t : State} (h : AgreeWhereWritten s t) (m : Memory) :
    AgreeWhereWritten (s.withHx m) (t.withHx m) := { h with hx := rfl }

theorem AgreeWhereWritten.raise {s t : State} (h : AgreeWhereWritten s t) (e : HashError) :
    AgreeWhereWritten (raise e s) (raise e t) := ((h.withRspStatus _).withRspValid _).withSeq _

theorem AgreeWhereWritten.accept {s t : State} (h : AgreeWhereWritten s t) (op p : BitVec 1) (l : BitVec 64) :
    AgreeWhereWritten (accept op p l s) (accept op p l t) :=
  (((((h.withLatch op p l).withRspValid _).withPhase _).withDg _).withHx _).withSeq _

/-! Reads of what is held are the same on both sides. -/

theorem AgreeWhereWritten.regWords {s t : State} (h : AgreeWhereWritten s t) (hs : octetHeld s.regs) :
    t.regWords = s.regWords := by simp only [State.regWords, OctetAgree.eq h.regs hs]

theorem AgreeWhereWritten.savedWords {s t : State} (h : AgreeWhereWritten s t) (hs : octetHeld s.saved) :
    t.savedWords = s.savedWords := by simp only [State.savedWords, OctetAgree.eq h.saved hs]

theorem AgreeWhereWritten.xwWord {s t : State} (h : AgreeWhereWritten s t) (k : Fin 132)
    (hk : s.xw[k].held = true) : t.xwWord k = s.xwWord k := by
  simp only [State.xwWord, Slot.agree_eq (h.xw k) hk]

end Sys2Proof.Machine
end

