-- ==== Sys2Proof/Laws/Control.lean ====
section
/-! SUPPORT. Control words: their values (R63), their decoding, and `cmd_ready`. -/

namespace Sys2Proof.Machine

theorem OpCode_ofCode_code (op : OpCode) : OpCode.ofCode op.code = some op := by cases op <;> rfl

/-- The fields of a control word are what it was made from (R62). -/
theorem controlWord_op (op : OpCode) (idx : BitVec 7) : (controlWord op idx).extractLsb' 8 4 = op.code := by
  cases op <;> revert idx <;> decide

theorem controlWord_z (op : OpCode) (idx : BitVec 7) : (controlWord op idx).extractLsb' 7 1 = 0#1 := by
  cases op <;> revert idx <;> decide

theorem controlWord_idx (op : OpCode) (idx : BitVec 7) : (controlWord op idx).extractLsb' 0 7 = idx := by
  cases op <;> revert idx <;> decide

/-- Decoding a control word: the micro-operation where the index is legal, else rejected by name. -/
theorem decodeU_controlWord (op : OpCode) (idx : BitVec 7) :
    decodeU (controlWord op idx) =
      if op.legalIdx idx then .ok (instrOf op idx) else .error .idxOutOfRange := by
  simp [decodeU, controlWord_op, controlWord_z, controlWord_idx, OpCode_ofCode_code]

/-- The words of the micro-operations without index (R63). -/
theorem controlWord_values :
    controlWord .wait 0 = 0x000#12 ∧ controlWord .chk 0 = 0x100#12 ∧ controlWord .pad 0 = 0x200#12 ∧
    controlWord .init 0 = 0x300#12 ∧ controlWord .ldblk 0 = 0x400#12 ∧ controlWord .save 0 = 0x800#12 ∧
    controlWord .ffwd 0 = 0xA00#12 ∧ controlWord .nxtb 0 = 0xB00#12 ∧ controlWord .digest 0 = 0xC00#12 ∧
    controlWord .hex 0 = 0xD00#12 ∧ controlWord .done 0 = 0xE00#12 := by
  decide

/-- What the machine runs next, where no command is presented at `WAIT`: the control word in `SEQ`. -/
theorem fetch_of_seq {s : State} (h : ¬(s.seq = controlWord .wait 0 ∧ s.ports.cmdValid = 1#1)) :
    fetch s = (match decodeU s.seq with | .ok i => .ok i | .error _ => .error .reservedWord) := by
  cases hd : decodeU s.seq <;> simp only [fetch, nextWord, if_neg h, decode, hd]

/-- At `WAIT` with a command presented it is the host command word. -/
theorem fetch_of_command {s : State} (h : s.seq = controlWord .wait 0 ∧ s.ports.cmdValid = 1#1) :
    fetch s = .ok (decodeHC (portWord s)) := by
  simp only [fetch, nextWord, if_pos h, decode]

end Sys2Proof.Machine
end

