-- ==== Sys2Proof/Laws/PerInstr.lean ====
section
/-! SUPPORT. Statements about every instruction as syntax, one lemma per constructor. -/

namespace Sys2Proof.Laws.ReservedEncodings

/-- Encoding and decoding an instruction that is not well formed is rejected by name: its word is reserved (R65). -/
def Statement (i : Instr) : Prop := i.wf = false → decode (encode i) = .error .idxOutOfRange

theorem wait : Statement .wait := by intro h; cases h
theorem chk : Statement .chk := by intro h; cases h
theorem pad : Statement .pad := by intro h; cases h
theorem init : Statement .init := by intro h; cases h
theorem ldblk : Statement .ldblk := by intro h; cases h
theorem save : Statement .save := by intro h; cases h
theorem ffwd : Statement .ffwd := by intro h; cases h
theorem nxtb : Statement .nxtb := by intro h; cases h
theorem digest : Statement .digest := by intro h; cases h
theorem hex : Statement .hex := by intro h; cases h
theorem done : Statement .done := by intro h; cases h

theorem ldw (j : BitVec 7) : Statement (.ldw j) := by
  intro h
  simp only [encode, decode, Machine.decodeU_controlWord, OpCode.legalIdx, OpCode.idxRange]
  simp only [Instr.wf, decide_eq_false_iff_not] at h
  simp [h]

theorem wgen (j : BitVec 7) : Statement (.wgen j) := by
  intro h
  simp only [encode, decode, Machine.decodeU_controlWord, OpCode.legalIdx, OpCode.idxRange]
  simp only [Instr.wf, decide_eq_false_iff_not] at h
  refine if_neg fun hc => h ?_
  simp only [Bool.and_eq_true] at hc
  exact ⟨of_decide_eq_true hc.1, of_decide_eq_true hc.2⟩

theorem wpgen (j : BitVec 7) : Statement (.wpgen j) := by
  intro h
  simp only [encode, decode, Machine.decodeU_controlWord, OpCode.legalIdx, OpCode.idxRange]
  simp only [Instr.wf, decide_eq_false_iff_not] at h
  simp [h]

theorem round (i : BitVec 7) : Statement (.round i) := by
  intro h
  simp only [encode, decode, Machine.decodeU_controlWord, OpCode.legalIdx, OpCode.idxRange]
  simp only [Instr.wf, decide_eq_false_iff_not] at h
  simp [h]

theorem compute (p : BitVec 1) (l : BitVec 64) : Statement (.compute p l) := by intro h; cases h
theorem computeHex (p : BitVec 1) (l : BitVec 64) : Statement (.computeHex p l) := by intro h; cases h

end Sys2Proof.Laws.ReservedEncodings
end

