-- ==== Sys2Proof/Laws/Spaces.lean ====
section
/-! SUPPORT. Memories inside their spaces (R40): what writes keep, and what the memory invariant depends on. -/

namespace Sys2Proof.Machine

theorem Memory.below_nil (n : Nat) : Memory.below n [] := fun _ h => by cases h

/-- A byte written inside a space leaves the memory inside it. -/
theorem Memory.below_write {m : Memory} {n a : Nat} (b : Byte) (h : m.below n) (ha : a < n) :
    (m.write a b).below n := by
  intro c hc
  rcases Memory.mem_write hc with rfl | hc
  · exact ha
  · exact h c hc

/-- So do bytes written inside it. -/
theorem Memory.below_writeBytes {m : Memory} {n a : Nat} {bs : List Byte} (h : m.below n) (ha : a + bs.length ≤ n) :
    (m.writeBytes a bs).below n := by
  intro c hc
  rcases Memory.mem_writeBytes hc with hc | hc
  · omega
  · exact h c hc

/-! How many bytes the operations write. -/

theorem digestBytes_length (r : Octet Word) : (digestBytes r).length = 32 := rfl

theorem hexBytes_length (r : Octet Word) : (hexBytes r).length = 64 := rfl

/-- The PaddedMessage fills its blocks (R80). -/
theorem paddedBytes_length (m : List Byte) : (paddedBytes m).length = 64 * blockCount m.length := by
  simp only [paddedBytes, unbe64, zeroCount, blockCount, List.length_append, List.length_cons, List.length_replicate,
    List.length_nil]
  omega

/-- The bound on the length of a message the machine runs with (R5; log 7). -/
theorem lmax_used : Config.used.lmax = 2 ^ 61 := rfl

/-- The size of a space depends on `NBLK` alone. -/
theorem State.size_congr {s t : State} (h : t.nblk = s.nblk) (sp : Space) : t.size sp = s.size sp := by
  cases sp <;> simp only [State.size, h]

/-- The memory invariant depends on the five memories and `NBLK` alone. -/
theorem MemoryOk.congr {s t : State} (h : MemoryOk s) (hn : t.nblk = s.nblk) (h1 : t.msg = s.msg) (h2 : t.pm = s.pm)
    (h3 : t.blkbuf = s.blkbuf) (h4 : t.dg = s.dg) (h5 : t.hx = s.hx) : MemoryOk t := by
  simpa only [MemoryOk, Canonical, InSpaces, State.size_congr hn, h1, h2, h3, h4, h5] using h

end Sys2Proof.Machine
end

