-- ==== Sys2Proof/Machine/Listing.lean ====
section
/-! DEFINITION. The textual syntax of the spec's listings (R67): mnemonics in upper case, indices in decimal, a message
as hexadecimal bytes, `[]` or `null`. -/

namespace Sys2Proof.Machine

/-- The mnemonic of R63 and R67. -/
def mnemonic : Instr → String
  | .wait => "WAIT" | .chk => "CHK" | .pad => "PAD" | .init => "INIT" | .ldblk => "LDBLK"
  | .ldw _ => "LDW" | .wgen _ => "WGEN" | .wpgen _ => "WPGEN" | .save => "SAVE" | .round _ => "ROUND"
  | .ffwd => "FFWD" | .nxtb => "NXTB" | .digest => "DIGEST" | .hex => "HEX" | .done => "DONE"
  | .compute _ _ => "COMPUTE" | .computeHex _ _ => "COMPUTE_HEX"

/-- One hexadecimal digit of a listing. -/
def digitText (n : Nat) : String :=
  match n with
  | 0 => "0" | 1 => "1" | 2 => "2" | 3 => "3" | 4 => "4" | 5 => "5" | 6 => "6" | 7 => "7"
  | 8 => "8" | 9 => "9" | 10 => "a" | 11 => "b" | 12 => "c" | 13 => "d" | 14 => "e" | _ => "f"

/-- A message byte as two hexadecimal digits. -/
def byteText (b : Byte) : String := digitText (b.toNat / 16) ++ digitText (b.toNat % 16)

/-- `<msg>` of R67: hexadecimal bytes, `[]` for the empty message, `null` for an absent input. DESIGN CHOICE: one
space between bytes (log 26). -/
def messageText : Option (List Byte) → String
  | none => "null"
  | some [] => "[]"
  | some (b :: bs) => bs.foldl (fun t c => t ++ " " ++ byteText c) (byteText b)

/-- An index in decimal; two digits are enough, the greatest index being 67 (R63), and a third is kept for the other
values of the 7-bit field. -/
def indexText (j : BitVec 7) : String :=
  (if 100 ≤ j.toNat then digitText (j.toNat / 100) else "") ++
  (if 10 ≤ j.toNat then digitText (j.toNat / 10 % 10) else "") ++ digitText (j.toNat % 10)

/-- An instruction as R67 writes it; a host command is written with its message, which is not part of its word. -/
def listingText (i : Instr) (msg : Option (List Byte)) : String :=
  match i with
  | .ldw j | .wgen j | .wpgen j | .round j => mnemonic i ++ " " ++ indexText j
  | .compute p _ | .computeHex p _ => mnemonic i ++ " " ++ messageText (if p = 1#1 then msg else none)
  | .wait | .chk | .pad | .init | .ldblk | .save | .ffwd | .nxtb | .digest | .hex | .done => mnemonic i

end Sys2Proof.Machine
end

