-- ==== Sys2Proof/Tests/Slice0.lean ====
section
/-! SUPPORT. The model's own tests: the well-formedness smoke, decoding of words written out from the spec's encodings,
one or two single steps per instruction with results from 95_test_vectors.md and the rules' examples, and for every
statement with hypotheses a state and operands that meet them. -/

namespace Sys2Proof.Tests

open Sys2Proof.Machine Sys2Proof.Claims

/-! Builders -/

/-- Eight registers with these values. -/
def octet (a b c d e f g h : Word) : Octet (Slot 32) := octetMap Slot.hold ⟨a, b, c, d, e, f, g, h⟩

/-- What a field of the next state is, none without a next state. -/
def after {α : Type} (o : Host.Outcome State Fault Refusal) (f : State → α) : Option α :=
  match o with
  | .next t => some (f t)
  | .fault _ => none
  | .refused _ => none

/-- Reset, with these bytes in `MSG` from address 0 and this latched length of a present message. -/
def withMessage (l : BitVec 64) (m : List Byte) : State :=
  { State.reset with msg := Memory.writeBytes [] 0 m, pres := .hold 1, lreg := .hold l }

/-- Reset, at `LDBLK` with these bytes in `PM`, `NBLK` blocks, block `BLK` next. -/
def atBlock (k n : BitVec 56) (pm : List Byte) : State :=
  { State.reset with seq := 0x400, pm := Memory.writeBytes [] 0 pm, nblk := .hold n, blk := .hold k }

/-- Reset, with these bytes in `BLKBUF` from an address. -/
def withBlock (a : Nat) (bs : List Byte) : State := { State.reset with blkbuf := Memory.writeBytes [] a bs }

/-- Reset, with these elements of `XW`. -/
def withWords (ws : List (Fin 132 × Word)) : State := ws.foldl (fun s w => s.withXw w.1 w.2) State.reset

/-- The registers of the vectors B6. -/
def b6 : State :=
  { State.reset with
    regs := octet 0x01234567 0x89abcdef 0xfedcba98 0x76543210 0x0f1e2d3c 0x4b5a6978 0x8796a5b4 0xc3d2e1f0 }

/-- The registers of the vectors B7 with leading zeros. -/
def b7 : State :=
  { State.reset with
    regs := octet 0x0000000a 0x00000000 0x0abcdef0 0x00000001 0x10000000 0x000fffff 0xffffffff 0x00a00b00 }

/-! Well-formedness: each check refuses an ill-formed term -/

theorem test_wf_refuses_ldw : Instr.wf (.ldw 16) = false := by decide
theorem test_wf_refuses_wgen_below : Instr.wf (.wgen 15) = false := by decide
theorem test_wf_refuses_wgen_above : Instr.wf (.wgen 68) = false := by decide
theorem test_wf_refuses_wpgen : Instr.wf (.wpgen 64) = false := by decide
theorem test_wf_refuses_round : Instr.wf (.round 64) = false := by decide

/-! Decoding: words written out bit by bit from R60, R62, R63 (B9) -/

theorem test_decode_wait : decodeU 0b000000000000#12 = .ok .wait := by decide
theorem test_decode_chk : decodeU 0b000100000000#12 = .ok .chk := by decide
theorem test_decode_pad : decodeU 0b001000000000#12 = .ok .pad := by decide
theorem test_decode_init : decodeU 0b001100000000#12 = .ok .init := by decide
theorem test_decode_ldblk : decodeU 0b010000000000#12 = .ok .ldblk := by decide
theorem test_decode_ldw_15 : decodeU 0b010100001111#12 = .ok (.ldw 15) := by decide
theorem test_decode_wgen_67 : decodeU 0b011001000011#12 = .ok (.wgen 67) := by decide
theorem test_decode_wpgen_63 : decodeU 0b011100111111#12 = .ok (.wpgen 63) := by decide
theorem test_decode_save : decodeU 0b100000000000#12 = .ok .save := by decide
theorem test_decode_round_17 : decodeU 0b100100010001#12 = .ok (.round 17) := by decide
theorem test_decode_ffwd : decodeU 0b101000000000#12 = .ok .ffwd := by decide
theorem test_decode_nxtb : decodeU 0b101100000000#12 = .ok .nxtb := by decide
theorem test_decode_digest : decodeU 0b110000000000#12 = .ok .digest := by decide
theorem test_decode_hex : decodeU 0b110100000000#12 = .ok .hex := by decide
theorem test_decode_done : decodeU 0b111000000000#12 = .ok .done := by decide
theorem test_decode_compute_abc : decodeHC 0x10000000000000003#66 = .compute 1 3 := by decide
theorem test_decode_computeHex_null : decodeHC 0x20000000000000000#66 = .computeHex 0 0 := by decide
theorem test_decode_op_f : decodeU 0xF00 = .error .reservedOp := by decide
theorem test_decode_z : decodeU 0x980 = .error .zSet := by decide
theorem test_decode_ldw_16 : decodeU 0x510 = .error .idxOutOfRange := by decide
theorem test_decode_wgen_15 : decodeU 0x60F = .error .idxOutOfRange := by decide
theorem test_decode_pad_1 : decodeU 0x201 = .error .idxOutOfRange := by decide
theorem test_decode_table_round : decodeTableWord 16 0x93F = some (.round 63) := by decide
theorem test_decode_table_compute : decodeTableWord 72 0x12000000000000000 = some (.compute 1 0x2000000000000000) := by
  decide
theorem test_encode_wgen_16 : encode (.wgen 16) = .u 0x610 := by decide
theorem test_listing_round : listingText (.round 17) none = "ROUND 17" := by decide
theorem test_listing_compute : listingText (.compute 1 3) (some [0x61, 0x62, 0x63]) = "COMPUTE 61 62 63" := by decide

/-! Primitives and functions (B1, B2) -/

theorem test_rotl_wraps : rotl 0x80000001 1 = 0x00000003 := by decide
theorem test_rotl_31 : rotl 0x12345678 31 = 0x091a2b3c := by decide
theorem test_add_four : add32x4 0xffffffff 0xffffffff 0xffffffff 0xffffffff = 0xfffffffc := by decide
theorem test_be32 : be32 0x61 0x62 0x63 0x80 = 0x61626380 := by decide
theorem test_unbe64 : unbe64 0x0102030405060708 = [1, 2, 3, 4, 5, 6, 7, 8] := by decide
theorem test_p0 : p0 0x12345678 = 0xd6688234 := by decide
theorem test_p1 : p1 0x12345678 = 0x05014549 := by decide
theorem test_ff_15 : ff 0x12345678 0x9abcdef0 0x0fedcba9 15 = 0x87654321 := by decide
theorem test_ff_16 : ff 0x12345678 0x9abcdef0 0x0fedcba9 16 = 0x1abcdef8 := by decide
theorem test_gg_16 : gg 0x12345678 0x9abcdef0 0x0fedcba9 16 = 0x1ffddff1 := by decide
theorem test_trom_48 : trom 48 = 0x9d8a7a87 := by decide
theorem test_hexchar_10 : hexchar 10 = 0x61 := by decide

/-! Boundary (R125 to R128, B8, P1) -/

theorem test_wait_holds : exec .wait State.reset = .next State.reset := rfl
theorem test_wait_accepts :
    after (exec .wait (State.reset.withPorts (presents 0 1 3)))
      (fun t => (t.cmdop.value, t.pres.value, t.lreg.value, t.seq)) = some (0, 1, 3, 0x100) := by decide
theorem test_chk_passes_empty :
    after (exec .chk (withMessage 0 [])) (fun t => (t.seq, t.rspValid)) = some (0x200, 0) := by decide
theorem test_chk_too_large :
    after (exec .chk (withMessage 0x2000000000000000 [])) (fun t => (t.seq, t.rspValid, t.rspStatus)) =
      some (0x000, 1, .inputTooLarge) := by decide
theorem test_init_loads :
    after (exec .init State.reset) (fun t => (octetList t.regWords, t.blk.value, t.seq)) =
      some ([0x7380166f, 0x4914b2b9, 0x172442d7, 0xda8a0600, 0xa96f30bc, 0x163138aa, 0xe38dee4d, 0xb0fb0e4e], 0,
        0x400) := by decide
theorem test_done :
    after (exec .done State.reset) (fun t => (t.rspValid, t.rspStatus, t.seq)) = some (1, .ok, 0x000) := by decide

/-! Padder (B3) and Block Splitter (B4) -/

theorem test_pad_abc :
    after (exec .pad (withMessage 3 [0x61, 0x62, 0x63]))
      (fun t => (t.len.value, t.nblk.value, [2, 3, 4, 62, 63].map t.pm.read)) =
      some (0x18, 1, [some 0x63, some 0x80, some 0, some 0, some 0x18]) := by decide
theorem test_pad_56 :
    after (exec .pad (withMessage 56 (List.replicate 56 0x61)))
      (fun t => (t.nblk.value, t.phase, t.seq, [55, 56, 57, 119, 126, 127].map t.pm.read)) =
      some (2, .padded, 0x300, [some 0x61, some 0x80, some 0, some 0, some 0x01, some 0xc0]) := by decide
theorem test_ldblk_second_block :
    after (exec .ldblk (atBlock 1 2 (List.replicate 64 0x61 ++ List.replicate 62 0 ++ [0x01, 0xc0])))
      (fun t => (t.seq, [0, 62, 63].map t.blkbuf.read)) = some (0x500, [some 0, some 0x01, some 0xc0]) := by decide
theorem test_ldblk_outside : exec .ldblk (atBlock 1 1 []) = .fault (.noSuchAddress .pm) := rfl
theorem test_nxtb_loops :
    after (exec .nxtb (atBlock 0 2 [])) (fun t => (t.blk.value, t.seq)) = some (1, 0x400) := by decide
theorem test_nxtb_leaves :
    after (exec .nxtb (atBlock 1 2 [])) (fun t => (t.blk.value, t.seq)) = some (2, 0xC00) := by decide

/-! Message Expander (B5) -/

theorem test_ldw_0 :
    after (exec (.ldw 0) (withBlock 0 [0x61, 0x62, 0x63, 0x80])) (fun t => (t.xwWord 0, t.seq)) =
      some (0x61626380, 0x501) := by decide
theorem test_ldw_15 :
    after (exec (.ldw 15) (withBlock 60 [0, 0, 0, 0x18])) (fun t => (t.xwWord 15, t.seq)) =
      some (0x00000018, 0x610) := by decide
theorem test_wgen_18 :
    after (exec (.wgen 18) (withWords [(15, 0x18)])) (fun t => (t.xwWord 18, t.seq)) =
      some (0x000c0606, 0x613) := by decide
theorem test_wgen_67 :
    after (exec (.wgen 67)
      (withWords [(51, 0xf70fe941), (58, 0x09008723), (64, 0x325c8f78), (54, 0x76af6296), (61, 0x4a64bc50)]))
      (fun t => (t.xwWord 67, t.seq)) = some (0xb99c0545, 0x700) := by decide
theorem test_wpgen_0 :
    after (exec (.wpgen 0) (withWords [(0, 0x61626380)])) (fun t => (t.xwWord 68, t.phase, t.seq)) =
      some (0x61626380, .idle, 0x701) := by decide
theorem test_wpgen_63 :
    after (exec (.wpgen 63) (withWords [(63, 0xf07e6590), (67, 0xb99c0545)]))
      (fun t => (t.xwWord 131, t.phase, t.seq)) = some (0x49e260d5, .expanded, 0x800) := by decide

/-! Compression Function (B6) -/

theorem test_save :
    after (exec .save b6) (fun t => (t.savedWords.a, t.savedWords.h, t.seq)) =
      some (0x01234567, 0xc3d2e1f0, 0x900) := by decide
theorem test_round_15 :
    after (exec (.round 15) ((b6.withXw 15 0xdeadbeef).withXw 83 0x0badf00d)) (fun t => (t.regWords, t.seq)) =
      some (⟨0x2d51be4e, 0x01234567, 0x579bdf13, 0xfedcba98, 0x5c3e57cd, 0x0f1e2d3c, 0x4bc25ad3, 0x8796a5b4⟩,
        0x910) := by decide
theorem test_round_63 :
    after (exec (.round 63) ((b6.withXw 63 0xdeadbeef).withXw 131 0x0badf00d)) (fun t => (t.regWords, t.seq)) =
      some (⟨0x740e69de, 0x01234567, 0x579bdf13, 0xfedcba98, 0x8056efe1, 0x0f1e2d3c, 0x4bc25ad3, 0x8796a5b4⟩,
        0xA00) := by decide
theorem test_ffwd_abc :
    after (exec .ffwd { State.reset with
        regs := octet 0x1547e69b 0x2bfa5f60 0xc6d696bc 0x069ae2e2 0xe808f43b 0x4ac3cf08 0xcaf04e66 0x3fb0a6ae,
        saved := octetMap Slot.hold Config.used.iv })
      (fun t => (t.regWords, t.phase, t.seq)) =
      some (⟨0x66c7f0f4, 0x62eeedd9, 0xd1f2d46b, 0xdc10e4e2, 0x4167c487, 0x5cf2f7a2, 0x297da02b, 0x8f4ba8e0⟩,
        .compressed, 0xB00) := by decide

/-! Digest Assembler (B7) -/

theorem test_digest :
    after (exec .digest b7) (fun t => (t.phase, t.seq, [0, 3, 8, 9, 28, 29, 30, 31].map t.dg.read)) =
      some (.finalized, 0xE00,
        [some 0, some 0x0a, some 0x0a, some 0xbc, some 0, some 0xa0, some 0x0b, some 0]) := by decide
theorem test_hex_keeps_zeros :
    after (exec .hex b7) (fun t => (t.seq, t.hx.length, [0, 7, 16, 17, 63].map t.hx.read)) =
      some (0xE00, 64, [some 0x30, some 0x61, some 0x30, some 0x61, some 0x30]) := by decide

/-! Commands, steps, reset, ports -/

theorem test_compute_accepted :
    after (exec (.compute 1 3) State.reset) (fun t => (t.cmdop.value, t.lreg.value, t.seq)) =
      some (0, 3, 0x100) := by decide
theorem test_compute_busy : exec (.compute 1 3) (atBlock 0 1 []) = .next (atBlock 0 1 []) := rfl
theorem test_computeHex_accepted :
    after (exec (.computeHex 0 9) State.reset) (fun t => (t.cmdop.value, t.pres.value, t.seq)) =
      some (1, 0, 0x100) := by decide
theorem test_step_takes_the_command :
    after (step (State.reset.withFetchWord 72 0x30000000000000003)) (fun t => (t.cmdop.value, t.lreg.value, t.seq)) =
      some (1, 3, 0x100) := by decide
theorem test_step_runs_init : after (step (State.reset.withFetchWord 16 0x300)) (·.seq) = some 0x400 := by decide
theorem test_step_refuses_reserved : step (State.reset.withSeq 0x600) = .refused .reservedWord := rfl
theorem test_reset_wins :
    after (step ((b6.withSeq 0x910).withPorts { presents 0 1 3 with rst := 1 })) (fun t => (t.seq, t.rspValid)) =
      some (0x000, 0) := by decide
theorem test_digest_port_without_result : digestPort State.reset = .error .noResult := rfl

/-! Witnesses: for each statement with hypotheses, what meets them -/

theorem witness_rotl : (31 : Nat) < 32 ∧ (0 : Nat) < 32 := by decide
theorem witness_round_functions : (15 : Nat) < 16 ∧ (16 : Nat) ≤ 16 ∧ (63 : Nat) ≤ 63 ∧ (31 : Nat) < 32 := by decide
theorem witness_byte_order : (3 : Nat) < 4 ∧ (7 : Nat) < 8 := by decide
theorem witness_hexchar : (9#4).toNat ≤ 9 ∧ 10 ≤ (10#4).toNat := by decide
theorem witness_decode_encode :
    Instr.wf (.ldw 15) = true ∧ Instr.wf (.wgen 16) = true ∧ Instr.wf (.wgen 67) = true ∧
    Instr.wf (.wpgen 63) = true ∧ Instr.wf (.round 63) = true ∧ Instr.wf (.compute 0 0) = true := by decide
theorem witness_encode_decode :
    decode (.u 0x643) = .ok (.wgen 67) ∧ decode (.hc 0x3FFFFFFFFFFFFFFFF) = .ok (.computeHex 1 0xFFFFFFFFFFFFFFFF) := by
  decide
theorem witness_reserved :
    State.reset.ports.rst = 0#1 ∧ reservedByRule (State.reset.withSeq 0x940).seq.toNat ∧
    ¬reservedByRule State.reset.seq.toNat ∧ step State.reset = .next State.reset :=
  ⟨rfl, .inr (.inr (by decide)), by rintro (h | h | h) <;> revert h <;> decide, rfl⟩
theorem witness_step_runs :
    b6.ports.rst = 0#1 ∧ decodeU (b6.withSeq 0x911).seq = .ok (.round 17) ∧ Instr.round 17 ≠ .wait ∧
    State.reset.seq = 0x000#12 ∧ State.reset.ports.cmdValid = 0#1 ∧
    (State.reset.withPorts (presents 1 1 0)).ports.cmdValid = 1#1 := by decide
theorem witness_placed_word :
    decodeTableWord 16 0x000 = some .wait ∧ decodeTableWord 72 0x3FFFFFFFFFFFFFFFF = some (.computeHex 1 0xFFFFFFFFFFFFFFFF) := by
  decide
theorem witness_padding_lengths : 2 ^ 61 - 1 < 2 ^ 61 ∧ (0 + 1 + 55) % 64 = 56 := by decide
theorem witness_pad :
    (withMessage 1 [0x61]).lreg.value.toNat < Config.used.lmax ∧
    ∀ a, a < (withMessage 1 [0x61]).lreg.value.toNat → ∃ b, (withMessage 1 [0x61]).msg.read a = some b := by
  refine ⟨by decide, fun a ha => ?_⟩
  have ha : a < 1 := ha
  obtain rfl : a = 0 := by omega
  exact ⟨0x61, rfl⟩
theorem witness_pad_next : ∃ t, exec .pad (withMessage 1 [0x61]) = .next t ∧ 64 * t.nblk.value.toNat ≤ 64 :=
  ⟨_, rfl, by decide⟩
theorem witness_missing_bytes :
    Config.used.lmax ≤ (withMessage 0x2000000000000000 []).lreg.value.toNat ∧
    ((withMessage 1 []).lreg.value.toNat < Config.used.lmax ∧ 0 < (withMessage 1 []).lreg.value.toNat ∧
      (withMessage 1 []).msg.read 0 = none) ∧
    (atBlock 1 1 []).nblk.value.toNat ≤ (atBlock 1 1 []).blk.value.toNat ∧
    ((atBlock 0 1 []).blk.value.toNat < (atBlock 0 1 []).nblk.value.toNat ∧ (63 : Nat) < 64 ∧
      (atBlock 0 1 []).pm.read (64 * (atBlock 0 1 []).blk.value.toNat + 63) = none) ∧
    ((15#7).toNat ≤ 15 ∧ (3 : Nat) < 4 ∧ State.reset.blkbuf.read (4 * (15#7).toNat + 3) = none) := by decide
theorem witness_empty_message :
    (withMessage 0 []).pres.value = 1#1 ∧ (withMessage 0 []).lreg.value = 0#64 ∧ (1 : Nat) ≤ 63 := by decide

/-- One block of zeros in `PM`, block 0 next. -/
def oneBlock : State := atBlock 0 1 (List.replicate 64 0)

theorem oneBlock_full : ∀ a, a < 64 → oneBlock.pm.read a = some 0 := by decide
theorem witness_ldblk :
    oneBlock.blk.value.toNat < oneBlock.nblk.value.toNat ∧
    ∀ a, a < 64 → ∃ b, oneBlock.pm.read (64 * oneBlock.blk.value.toNat + a) = some b := by
  refine ⟨by decide, fun a ha => ⟨0, ?_⟩⟩
  rw [show 64 * oneBlock.blk.value.toNat + a = a from by
    have h : oneBlock.blk.value.toNat = 0 := by decide
    omega]
  exact oneBlock_full a ha
theorem witness_nxtb : (atBlock 0xFFFFFFFFFFFFFE 0xFFFFFFFFFFFFFF []).blk.value.toNat + 1 < 2 ^ 56 := by decide
theorem witness_ldw :
    (15#7).toNat ≤ 15 ∧ (15 : Fin 132).val = (15#7).toNat ∧
    (withBlock 60 [1, 2, 3, 4]).blkbuf.read (4 * (15#7).toNat) = some 1 ∧
    (withBlock 60 [1, 2, 3, 4]).blkbuf.read (4 * (15#7).toNat + 1) = some 2 ∧
    (withBlock 60 [1, 2, 3, 4]).blkbuf.read (4 * (15#7).toNat + 2) = some 3 ∧
    (withBlock 60 [1, 2, 3, 4]).blkbuf.read (4 * (15#7).toNat + 3) = some 4 := by decide
theorem witness_wgen :
    16 ≤ (67#7).toNat ∧ (67#7).toNat ≤ 67 ∧ (67 : Fin 132).val = (67#7).toNat ∧
    (51 : Fin 132).val + 16 = (67#7).toNat ∧ (58 : Fin 132).val + 9 = (67#7).toNat ∧
    (64 : Fin 132).val + 3 = (67#7).toNat ∧ (54 : Fin 132).val + 13 = (67#7).toNat ∧
    (61 : Fin 132).val + 6 = (67#7).toNat := by decide
theorem witness_wgen_first :
    16 ≤ (16#7).toNat ∧ (16#7).toNat ≤ 67 ∧ (16 : Fin 132).val = (16#7).toNat ∧
    (0 : Fin 132).val + 16 = (16#7).toNat ∧ (7 : Fin 132).val + 9 = (16#7).toNat ∧
    (13 : Fin 132).val + 3 = (16#7).toNat ∧ (3 : Fin 132).val + 13 = (16#7).toNat ∧
    (10 : Fin 132).val + 6 = (16#7).toNat := by decide
theorem witness_wpgen :
    (63#7).toNat ≤ 63 ∧ (131 : Fin 132).val = 68 + (63#7).toNat ∧ (63 : Fin 132).val = (63#7).toNat ∧
    (67 : Fin 132).val = (63#7).toNat + 4 := by decide
theorem witness_out_of_range :
    15 < (16#7).toNat ∧ (15#7).toNat < 16 ∧ 67 < (68#7).toNat ∧ 63 < (64#7).toNat := by decide
theorem witness_round :
    (63#7).toNat ≤ 63 ∧ (63 : Fin 132).val = (63#7).toNat ∧ (131 : Fin 132).val = 68 + (63#7).toNat := by decide
theorem witness_sequential_round : (63 : Nat) ≤ 63 := by decide
theorem witness_digest : (octetList b7.regWords)[7]? = some 0x00a00b00 ∧ (3 : Nat) < 4 := by decide
theorem witness_hex : (octetList b7.regWords)[7]? = some 0x00a00b00 ∧ (7 : Nat) < 8 := by decide
theorem witness_hex_view :
    ∃ t u, exec .digest b7 = .next t ∧ exec .hex t = .next u ∧ (31 : Nat) < 32 := ⟨_, _, rfl, rfl, by decide⟩
theorem witness_wait :
    State.reset.ports.cmdValid = 0#1 ∧ (State.reset.withPorts (presents 1 0 0)).ports.cmdValid = 1#1 := by decide
/-- Also the hypotheses of StatusAndPhasePortsShowTheirCodes. -/
theorem witness_chk :
    State.reset.pres.value = 0#1 ∧
    ((withMessage 0x2000000000000000 []).pres.value = 1#1 ∧
      Config.used.lmax ≤ (withMessage 0x2000000000000000 []).lreg.value.toNat) ∧
    ((withMessage 0x1FFFFFFFFFFFFFFF []).pres.value = 1#1 ∧
      (withMessage 0x1FFFFFFFFFFFFFFF []).lreg.value.toNat < Config.used.lmax) := by decide
theorem witness_length_test :
    2 ^ 58 ≤ 2 ^ 58 ∧ 2 ^ 58 ≤ 2 ^ 61 ∧ (0x03FFFFFFFFFFFFFF#64).toNat < 2 ^ 58 ∧
    2 ^ 61 ≤ (0x2000000000000000#64).toNat := by decide
theorem witness_commands : State.reset.seq = 0x000#12 ∧ (State.reset.withSeq 0x100).seq.toNat / 256 ≠ 0 := by decide
theorem witness_wait_command :
    (State.reset.withPorts (presents 1 1 5)).seq = 0x000#12 ∧
    (State.reset.withPorts (presents 1 1 5)).ports.cmdValid = 1#1 := by decide
theorem witness_successor :
    decodeU (b6.withSeq 0x93F).seq = .ok (.round 63) ∧ ∃ t, exec (.round 63) (b6.withSeq 0x93F) = .next t :=
  ⟨by decide, _, rfl⟩
theorem witness_writers : ∃ t, exec .init State.reset = .next t ∧ t.regs ≠ State.reset.regs := ⟨_, rfl, by decide⟩
theorem witness_errors :
    ∃ t, exec .chk State.reset = .next t ∧ t.rspStatus ≠ .ok ∧
      (t.rspStatus ≠ State.reset.rspStatus ∨ t.rspValid ≠ State.reset.rspValid) ∧ t.rspValid = 1#1 :=
  ⟨_, rfl, by decide, by decide, by decide⟩
theorem witness_ports_ignored :
    (State.reset.withSeq 0x100).seq ≠ 0x000#12 ∧ (presents 1 1 0).rst = Ports.idle.rst ∧
    ∃ t, step ((State.reset.withSeq 0x100).withPorts (presents 1 1 0)) = .next t := ⟨by decide, by decide, _, rfl⟩
theorem witness_message_read :
    State.reset.seq ≠ 0x200#12 ∧
    (∀ a, a < (withMessage 1 [0x61]).lreg.value.toNat →
      Memory.read [(0, 0x61), (1, 0x62)] a = (withMessage 1 [0x61]).msg.read a) := by decide

/-- `PAD` is next, its message of one byte in `MSG`, the latch written. -/
def atPad : State := { withMessage 1 [0x61] with seq := 0x200, cmdop := .hold 0 }

theorem reset_memoryOk : MemoryOk State.reset := by
  refine ⟨State.reset_memories_wf, ?_, ?_, ?_, ?_, ?_⟩ <;> intro c hc <;> cases hc
theorem witness_moves_memory :
    MemoryOk State.reset ∧ move .core State.reset = .next State.reset ∧
    ∃ t, move (.host (.writeMsg 0 0x61)) State.reset = .next t := ⟨reset_memoryOk, rfl, _, rfl⟩
theorem witness_moves_phase :
    PhaseFits atPad ∧ ∃ t, move .core atPad = .next t := ⟨⟨.pad, by decide, rfl⟩, _, rfl⟩
theorem atPad_ready : Ready atPad := ⟨.pad, by decide, ⟨by decide, by decide, by decide⟩, by decide, by decide⟩
theorem witness_moves_ready : Ready atPad ∧ ∃ t, move .core atPad = .next t := ⟨atPad_ready, _, rfl⟩
theorem witness_ready_steps : Ready atPad ∧ atPad.seq = 0x200#12 ∧ messageHeld atPad :=
  ⟨atPad_ready, by decide, by
    intro a ha
    have ha : a < 1 := ha
    obtain rfl : a = 0 := by omega
    decide⟩
/-- `atPad` with other bits in elements that hold no value. -/
def atPadOtherBits : State :=
  { atPad with blk := ⟨7, false⟩, nblk := ⟨9, false⟩, saved := { atPad.saved with c := ⟨5, false⟩ } }

theorem witness_ready_reads :
    Ready atPad ∧ AgreeWhereWritten atPad atPadOtherBits ∧ atPad ≠ atPadOtherBits ∧ fetch atPad = .ok .pad :=
  ⟨atPad_ready,
   { AgreeWhereWritten.refl atPad with
     blk := ⟨rfl, by decide⟩
     nblk := ⟨rfl, by decide⟩
     saved := { OctetAgree.refl atPad.saved with c := ⟨rfl, by decide⟩ } },
   by decide, rfl⟩
/-- The case of a fault: the message byte is not there. -/
theorem witness_ready_reads_fault :
    Ready (atPad.withMsg []) ∧ AgreeWhereWritten (atPad.withMsg []) (atPad.withMsg []) ∧
    fetch (atPad.withMsg []) = .ok .pad ∧ exec .pad (atPad.withMsg []) = .fault (.noValue .msg) :=
  ⟨⟨.pad, by decide, ⟨by decide, by decide, by decide⟩, by decide, by decide⟩, AgreeWhereWritten.refl _, rfl, rfl⟩
theorem witness_reset_wins :
    ((b6.withSeq 0xFFF).withPorts { presents 0 1 3 with rst := 1 }).ports.rst = 1#1 := by decide

/-- A response of `COMPUTE_HEX` with zero digest and zero characters. -/
def responded : State :=
  { State.reset with rspValid := 1, cmdop := .hold 1, dg := Memory.writeBytes [] 0 (List.replicate 32 0),
                     hx := Memory.writeBytes [] 0 (List.replicate 64 0x30) }

theorem witness_result_ports :
    ¬(State.reset.rspValid = 1#1 ∧ State.reset.rspStatus = .ok) ∧ State.reset.cmdop.value = 0#1 ∧
    digestPort responded = .ok 0 ∧ (31 : Nat) < 32 ∧ (∃ v, hexPort responded = .ok v) ∧ (63 : Nat) < 64 :=
  ⟨by decide, by decide, rfl, by decide, ⟨_, rfl⟩, by decide⟩
theorem witness_host_writes :
    0 < messageInUse atPad ∧ messageInUse atPad ≤ 1 ∧ 1 < Config.used.lmax - 1 ∧
    Config.used.lmax - 1 ≤ 2 ^ 61 - 1 := by decide

/-- The host presents nothing for `n` steps. -/
def quiet (n : Nat) : List Ports := List.replicate n Ports.idle

theorem quiet_noReset (n : Nat) : NoReset (quiet n) := by
  intro p hp
  rw [List.eq_of_mem_replicate hp]
  rfl
theorem witness_one_block :
    (quiet 200).length = 200 ∧ NoReset (quiet 200) ∧ oneBlock.seq = 0x400#12 ∧
    oneBlock.blk.value.toNat + 1 < 2 ^ 56 ∧
    memRead oneBlock .pm (64 * oneBlock.blk.value.toNat) 64 = .ok (List.replicate 64 0) :=
  ⟨List.length_replicate, quiet_noReset 200, by decide, by decide, rfl⟩
theorem witness_run :
    State.reset.seq = 0x000#12 ∧ ([] : List Byte).length < 2 ^ 58 ∧ MessageIs State.reset [] ∧ NoReset (quiet 206) ∧
    (quiet 206).length = 5 + 200 * blockCount ([] : List Byte).length + (1#1).toNat :=
  ⟨rfl, by decide, fun _ h => absurd h (Nat.not_lt_zero _), quiet_noReset 206, List.length_replicate⟩
theorem witness_run_compute :
    (withMessage 1 [0x61]).seq = 0x000#12 ∧ ([0x61] : List Byte).length < 2 ^ 58 ∧
    MessageIs (withMessage 1 [0x61]) [0x61] ∧ NoReset (quiet 205) ∧
    (quiet 205).length = 5 + 200 * blockCount ([0x61] : List Byte).length ∧ (204 : Nat) < (quiet 205).length := by
  refine ⟨rfl, by decide, fun a ha => ?_, quiet_noReset 205, List.length_replicate,
    Nat.lt_of_lt_of_eq (by decide) List.length_replicate.symm⟩
  have ha : a < 1 := ha
  obtain rfl : a = 0 := by omega
  decide
theorem witness_microprogram :
    (quiet 205).length = 5 + 200 * blockCount ([] : List Byte).length ∧
    (quiet 206).length = 6 + 200 * blockCount ([] : List Byte).length ∧
    0#64 = BitVec.ofNat 64 ([] : List Byte).length :=
  ⟨List.length_replicate, List.length_replicate, rfl⟩
theorem witness_erroneous :
    State.reset.seq = 0x000#12 ∧ Ports.idle.rst = 0#1 ∧ 2 ^ 61 ≤ (0x2000000000000000#64).toNat := by decide
theorem witness_past :
    State.reset.seq = 0x000#12 ∧ b6.seq = 0x000#12 ∧ State.reset.msg = b6.msg ∧ NoReset (quiet 1) ∧
    ∃ t, runInputs (presents 0 0 0 :: quiet 1) State.reset = .next t ∧ t.seq = 0x000#12 :=
  ⟨rfl, rfl, rfl, quiet_noReset 1, _, rfl, by decide⟩

end Sys2Proof.Tests
end

section
/-! PROOFS. The primitives of 00_scope.md: rotation (R9) and modular addition (R10). -/

namespace Sys2Proof.Machine

/-- R9: the bits shifted out at the top come back at the bottom, where the shifted word has zeros, so the two parts
add without a carry. The form holds at `n = 0` too, since then `x / 2 ^ 32` is 0. -/
theorem toNat_rotl (x : Word) {n : Nat} (hn : n < 32) :
    (rotl x n).toNat = x.toNat * 2 ^ n % 2 ^ 32 + x.toNat / 2 ^ (32 - n) := by
  have hpow : 2 ^ 32 = 2 ^ (32 - n) * 2 ^ n := by rw [← Nat.pow_add, Nat.sub_add_cancel hn.le]
  have hhigh : x.toNat * 2 ^ n % 2 ^ 32 = (x.toNat % 2 ^ (32 - n)) <<< n := by
    rw [hpow, Nat.mul_mod_mul_right, Nat.shiftLeft_eq]
  have hlow : x.toNat / 2 ^ (32 - n) < 2 ^ n := Nat.div_lt_of_lt_mul (hpow ▸ x.isLt)
  rw [rotl, BitVec.toNat_rotateLeft, Nat.mod_eq_of_lt hn, Nat.shiftLeft_eq, Nat.shiftRight_eq_div_pow, hhigh,
    Nat.shiftLeft_add_eq_or_of_lt hlow]

@[simp] theorem rotl_zero (x : Word) : rotl x 0 = x :=
  BitVec.eq_of_toNat_eq (by
    rw [toNat_rotl x (by decide), Nat.pow_zero, Nat.mul_one, Nat.mod_eq_of_lt x.isLt, Nat.div_eq_of_lt x.isLt,
      Nat.add_zero])

/-- R9: bit `b` moves to `b + n` while that is inside the word, and to `b + n - 32` once it is past the top. -/
theorem rotl_getLsbD_add_mod (x : Word) {n b : Nat} (hn : n < 32) (hb : b < 32) :
    (rotl x n).getLsbD ((b + n) % 32) = x.getLsbD b := by
  rw [rotl, BitVec.getLsbD_rotateLeft_of_le hn]
  by_cases hin : b + n < 32
  · rw [Nat.mod_eq_of_lt hin]
    simp [hin]
  · have hwrap : (b + n) % 32 = b + n - 32 := by omega
    have hlt : b + n - 32 < n := by omega
    have hsrc : 32 - n + (b + n - 32) = b := by omega
    simp [hwrap, hlt, hsrc]

theorem toNat_add32 (a b : Word) : (add32 a b).toNat = (a.toNat + b.toNat) % 2 ^ 32 :=
  BitVec.toNat_add a b

theorem toNat_add32x3 (a b c : Word) : (add32x3 a b c).toNat = (a.toNat + b.toNat + c.toNat) % 2 ^ 32 := by
  rw [add32x3, toNat_add32, toNat_add32, Nat.mod_add_mod]

theorem toNat_add32x4 (a b c d : Word) :
    (add32x4 a b c d).toNat = (a.toNat + b.toNat + c.toNat + d.toNat) % 2 ^ 32 := by
  rw [add32x4, toNat_add32, toNat_add32x3, Nat.mod_add_mod]

/-- Settles O1: the arithmetic form and the movement of each bit. -/
theorem rotlMovesBitsAround : Obligations.RotlMovesBitsAround := by
  intro x n hn
  refine ⟨?_, fun b hb => rotl_getLsbD_add_mod x hn hb⟩
  split
  · next hzero => rw [hzero, rotl_zero]
  · exact toNat_rotl x hn

/-- Settles O2: each further operand meets a sum already reduced, and reducing it again at the end is the same. -/
theorem additionWrapsOnce : Obligations.AdditionWrapsOnce :=
  fun a b c d => ⟨toNat_add32 a b, toNat_add32x3 a b c, toNat_add32x4 a b c d⟩

end Sys2Proof.Machine
end

section
/-! PROOFS. The constants of 10_state.md: `T` (R24) and `TROM` (R25). -/

open Sys2Proof.Claims

namespace Sys2Proof.Machine

theorem roundConstant_eq (i : Nat) : roundConstant i = if i < 16 then 0x79cc4519 else 0x7a879d8a := rfl

/-- R25: the rotation amount of `ROUND` (R64) is the index modulo 32, so from round 32 on the amounts repeat. -/
theorem trom_eq_rotl (i : Nat) : trom i = rotl (roundConstant i) (i % 32) := rfl

/-- The printed table of R25 against the formula, all 64 entries evaluated. -/
theorem map_trom_range_eq_tromTable : (List.range 64).map trom = tromTable := by decide

/-- Settles O4: the two formulas are the model's definitions, and the table is what they evaluate to. -/
theorem roundConstantsAreTheTable : Obligations.RoundConstantsAreTheTable :=
  ⟨roundConstant_eq, trom_eq_rotl, map_trom_range_eq_tromTable⟩

end Sys2Proof.Machine
end

section
/-! PROOFS. The reserved control words of 30_encoding.md (R65): the decoder against the rule, what the machine does with
them, and that no step leaves one in `SEQ`. -/

open Sys2Proof.Claims

namespace Sys2Proof.Machine

/-! The fields of a control word (R62) and the operation map (R63), as the numbers the rule speaks of. -/

theorem toNat_opField (w : BitVec 12) : (w.extractLsb' 8 4).toNat = w.toNat / 256 := by
  rw [BitVec.extractLsb'_toNat, Nat.shiftRight_eq_div_pow]
  omega

theorem zField_eq_one_iff (w : BitVec 12) : w.extractLsb' 7 1 = 1#1 ↔ w.toNat / 128 % 2 = 1 := by
  rw [← BitVec.toNat_inj, BitVec.extractLsb'_toNat, Nat.shiftRight_eq_div_pow]
  rfl

theorem toNat_idxField (w : BitVec 12) : (w.extractLsb' 0 7).toNat = w.toNat % 128 := by
  rw [BitVec.extractLsb'_toNat, Nat.shiftRight_zero]

theorem OpCode_ofCode_eq_none_iff (c : BitVec 4) : OpCode.ofCode c = none ↔ c.toNat = 0xF := by
  revert c; decide

theorem OpCode_code_of_ofCode (c : BitVec 4) : ∀ op ∈ OpCode.ofCode c, op.code = c := by
  revert c; decide

/-- The `legal idx` column of R63, in the form the rule writes it: four operations take an index, the others 0. -/
theorem OpCode_legalIdx_iff (op : OpCode) (idx : BitVec 7) :
    op.legalIdx idx = true ↔
      (if op.code.toNat = 0x5 then idx.toNat ≤ 15
        else if op.code.toNat = 0x6 then 16 ≤ idx.toNat ∧ idx.toNat ≤ 67
        else if op.code.toNat = 0x7 then idx.toNat ≤ 63
        else if op.code.toNat = 0x9 then idx.toNat ≤ 63
        else idx.toNat = 0) := by
  rw [OpCode.legalIdx, Bool.and_eq_true, decide_eq_true_iff, decide_eq_true_iff]
  cases op <;> simp [OpCode.idxRange, OpCode.code]

/-! Rejection. -/

/-- R65: the decoder's three ways to reject are the rule's three disjuncts. -/
theorem decodeU_error_iff (w : BitVec 12) : (∃ r, decodeU w = .error r) ↔ reservedByRule w.toNat := by
  rw [reservedByRule, ← toNat_opField, ← zField_eq_one_iff, ← toNat_idxField, decodeU]
  cases hop : OpCode.ofCode (w.extractLsb' 8 4) with
  | none => simp [(OpCode_ofCode_eq_none_iff _).1 hop]
  | some op =>
    have hF : (w.extractLsb' 8 4).toNat ≠ 0xF := by
      rw [Ne, ← OpCode_ofCode_eq_none_iff, hop]; exact Option.some_ne_none op
    have hidx := OpCode_legalIdx_iff op (w.extractLsb' 0 7)
    rw [OpCode_code_of_ofCode _ op hop] at hidx
    simp only [hF, false_or, ← hidx]
    by_cases hz : w.extractLsb' 7 1 = 1#1
    · simp [hz]
    · by_cases hl : op.legalIdx (w.extractLsb' 0 7) = true <;> simp [hz, hl]

theorem seqLegal_iff_not_reservedByRule (s : State) : SeqLegal s ↔ ¬reservedByRule s.seq.toNat := by
  rw [SeqLegal, ← decodeU_error_iff]
  cases decodeU s.seq <;> simp

/-- At `WAIT` the word is not reserved, so a reserved word is the one fetched even when a command is presented. -/
theorem fetch_of_reserved {s : State} (h : reservedByRule s.seq.toNat) : fetch s = .error .reservedWord := by
  obtain ⟨r, hr⟩ := (decodeU_error_iff s.seq).2 h
  have hwait : s.seq ≠ controlWord .wait 0 := fun hw => by
    rw [hw, decodeU_controlWord] at hr
    cases hr
  rw [fetch_of_seq fun hc => hwait hc.1, hr]

/-! What a step leaves in `SEQ`. -/

theorem seqLegal_withSeq (s : State) {op : OpCode} {idx : BitVec 7} (h : op.legalIdx idx = true) :
    SeqLegal (s.withSeq (controlWord op idx)) :=
  ⟨instrOf op idx, by rw [State.withSeq_seq, decodeU_controlWord, if_pos h]⟩

/-- R132: up to the last legal index the successor is the same operation at the next index, which is legal too. -/
theorem seqLegal_withSeq_nextIndexed (s : State) {op op' : OpCode} {idx idx' : BitVec 7}
    (hmin : op.idxRange.1 ≤ idx.toNat) (h' : op'.legalIdx idx' = true) :
    SeqLegal (s.withSeq (nextIndexed op idx op.idxRange.2 (controlWord op' idx'))) := by
  rw [nextIndexed]
  split
  · next hlt =>
    have hmax : op.idxRange.2 ≤ 67 := by cases op <;> decide
    have hsucc : (idx + 1).toNat = idx.toNat + 1 := by
      rw [BitVec.toNat_add]
      exact Nat.mod_eq_of_lt (Nat.lt_of_le_of_lt (hlt.trans_le hmax) (by decide))
    refine seqLegal_withSeq s ?_
    simp only [OpCode.legalIdx, hsucc, Bool.and_eq_true, decide_eq_true_eq]
    exact ⟨Nat.le_succ_of_le hmin, hlt⟩
  · exact seqLegal_withSeq s h'

theorem seqLegal_accept (op p : BitVec 1) (l : BitVec 64) (s : State) : SeqLegal (accept op p l s) :=
  seqLegal_withSeq _ rfl

theorem seqLegal_command (op p : BitVec 1) (l : BitVec 64) {s : State} (hs : SeqLegal s) :
    SeqLegal (command op p l s) := by
  obtain ⟨-, heq⟩ | ⟨-, heq⟩ := command_cases op p l s <;> rw [heq]
  · exact seqLegal_accept op p l s
  · exact hs

theorem seqLegal_reset : SeqLegal State.reset := ⟨.wait, rfl⟩

/-- Every instruction, not only the one `SEQ` names, leaves a legal word: `SEQ` as it was, or one of R132's. -/
theorem exec_keeps_seqLegal {i : Instr} {s t : State} (hs : SeqLegal s) (h : exec i s = .next t) : SeqLegal t := by
  cases i with
  | wait =>
    simp only [exec, execWait] at h
    split at h <;> cases h
    · exact seqLegal_accept _ _ _ s
    · exact hs
  | chk =>
    simp only [exec, execChk] at h
    split at h <;> cases h <;> exact seqLegal_withSeq _ rfl
  | pad =>
    simp only [exec, execPad] at h
    split at h <;> cases h
    exact seqLegal_withSeq _ rfl
  | ldblk =>
    simp only [exec, execLdblk] at h
    split at h <;> cases h
    exact seqLegal_withSeq _ rfl
  | ldw j =>
    simp only [exec, execLdw] at h
    split at h
    · split at h <;> cases h
      exact seqLegal_withSeq_nextIndexed (op := .ldw) _ (Nat.zero_le _) rfl
    · cases h
  | wgen j =>
    simp only [exec, execWgen] at h
    split at h
    · next hj =>
      cases h
      exact seqLegal_withSeq_nextIndexed (op := .wgen) _ hj.1 rfl
    · cases h
  | wpgen j =>
    simp only [exec, execWpgen] at h
    split at h <;> cases h
    exact seqLegal_withSeq_nextIndexed (op := .wpgen) _ (Nat.zero_le _) rfl
  | round j =>
    simp only [exec, execRound] at h
    split at h <;> cases h
    exact seqLegal_withSeq_nextIndexed (op := .round) _ (Nat.zero_le _) rfl
  | nxtb =>
    cases h
    split <;> exact seqLegal_withSeq _ rfl
  | digest =>
    cases h
    split <;> exact seqLegal_withSeq _ rfl
  | init | save | ffwd | hex | done =>
    cases h
    exact seqLegal_withSeq _ rfl
  | compute p l | computeHex p l =>
    cases h
    exact seqLegal_command _ p l hs

theorem step_keeps_seqLegal {s t : State} (hs : SeqLegal s) (h : step s = .next t) : SeqLegal t := by
  obtain ⟨-, heq⟩ | ⟨-, r, -, heq⟩ | ⟨-, i, -, heq⟩ := step_cases s <;> rw [heq] at h
  · cases h
    exact seqLegal_reset
  · cases h
  · exact exec_keeps_seqLegal hs h

/-- Settles O9: the decoder rejects by the rule, a reserved word is what a step fetches, and a step keeps `SeqLegal`. -/
theorem reservedWordsAreRefused : Obligations.ReservedWordsAreRefused := by
  refine ⟨decodeU_error_iff, fun s hrst hres => ?_, fun s t hs hst => ?_, seqLegal_reset⟩
  · simp [step, hrst, fetch_of_reserved hres]
  · rw [← seqLegal_iff_not_reservedByRule] at hs ⊢
    exact step_keeps_seqLegal hs hst

end Sys2Proof.Machine
end

section
/-! PROOFS. The Padder of 40_padder.md: the lengths (R80, R83), the bytes of the PaddedMessage (R81) and `PAD` (R82,
R84). -/

namespace Sys2Proof.Machine

/-! Lengths (R80, R83). -/

theorem blockCount_eq (l : Nat) : blockCount l = (l + 8) / 64 + 1 := rfl

theorem zeroCount_eq (l : Nat) : zeroCount l = 64 * blockCount l - l - 9 := rfl

theorem add_nine_le_blocks (l : Nat) : l + 9 ≤ 64 * blockCount l := by
  rw [blockCount_eq]; omega

theorem blocks_le_add (l : Nat) : 64 * blockCount l ≤ l + 72 := by
  rw [blockCount_eq]; omega

/-- R80: message, `0x80`, zero bytes and length field fill the blocks exactly. -/
theorem blocks_eq_parts (l : Nat) : 64 * blockCount l = l + 1 + zeroCount l + 8 := by
  have := add_nine_le_blocks l
  rw [zeroCount_eq]; omega

theorem zeroCount_le (l : Nat) : zeroCount l ≤ 63 := by
  have := blocks_le_add l
  rw [zeroCount_eq]; omega

theorem add_zeroCount_mod (l : Nat) : (l + 1 + zeroCount l) % 64 = 56 := by
  have := blocks_eq_parts l
  omega

/-- R80: below 64 only one number of zero bytes reaches the length field, so `zeroCount` is the least. -/
theorem zeroCount_least {l z : Nat} (hz : (l + 1 + z) % 64 = 56) : zeroCount l ≤ z := by
  have hmod := add_zeroCount_mod l
  have hle := zeroCount_le l
  omega

theorem zeroCount_eq_int_mod (l : Nat) : (zeroCount l : Int) = (55 - (l : Int)) % 64 := by
  have hmod := add_zeroCount_mod l
  have hle := zeroCount_le l
  omega

theorem blockCount_le {l : Nat} (hl : l < 2 ^ 61) : blockCount l ≤ 2 ^ 55 + 1 := by
  rw [blockCount_eq]; omega

/-- R26, R80: the bit length of a legal message fits `LEN`. -/
theorem toNat_bitLength {l : Nat} (hl : l < 2 ^ 61) : (BitVec.ofNat 64 (l * 8)).toNat = l * 8 := by
  rw [BitVec.toNat_ofNat, Nat.mod_eq_of_lt (by omega)]

/-- R26, R80: its block count fits `NBLK`. -/
theorem toNat_blockCount {l : Nat} (hl : l < 2 ^ 61) : (BitVec.ofNat 56 (blockCount l)).toNat = blockCount l := by
  rw [BitVec.toNat_ofNat, Nat.mod_eq_of_lt ((blockCount_le hl).trans_lt (by decide))]

/-! Content (R81). -/

/-- R7: byte `t` of `UNBE64`, by division; `BitVec.ofNat` takes the remainder. -/
theorem getElem?_unbe64 (v : BitVec 64) {t : Nat} (ht : t < 8) :
    (unbe64 v)[t]? = some (BitVec.ofNat 8 (v.toNat / 2 ^ (56 - 8 * t))) := by
  have hbyte (n : Nat) : v.extractLsb' n 8 = BitVec.ofNat 8 (v.toNat / 2 ^ n) := by
    rw [BitVec.extractLsb', Nat.shiftRight_eq_div_pow]
  simp only [unbe64, hbyte]
  interval_cases t <;> rfl

theorem getElem?_eq_padByte {m : List Byte} {a : Nat} (ha : a < m.length) : m[a]? = some (padByte m a) := by
  rw [padByte, if_pos ha, List.getD_eq_getElem?_getD, List.getElem?_eq_getElem ha]
  rfl

/-- R81: the parts of the PaddedMessage laid end to end, address by address. -/
theorem getElem?_paddedBytes (m : List Byte) {a : Nat} (ha : a < 64 * blockCount m.length) :
    (paddedBytes m)[a]? = some (padByte m a) := by
  have hparts := blocks_eq_parts m.length
  rw [paddedBytes]
  by_cases hmsg : a < m.length
  · rw [List.getElem?_append_left hmsg, getElem?_eq_padByte hmsg]
  · rw [List.getElem?_append_right (Nat.le_of_not_lt hmsg), padByte, if_neg hmsg]
    split
    · next hmark => rw [hmark, Nat.sub_self]; rfl
    · next hmark =>
      obtain ⟨k, rfl⟩ : ∃ k, a = m.length + 1 + k := ⟨a - (m.length + 1), by omega⟩
      rw [show m.length + 1 + k - m.length = k + 1 by omega, List.getElem?_cons_succ]
      split
      · rw [List.getElem?_append_left (by rw [List.length_replicate]; omega), List.getElem?_replicate_of_lt (by omega)]
        rfl
      · have hk : m.length + 1 + k - (64 * blockCount m.length - 8) = k - zeroCount m.length := by omega
        rw [List.getElem?_append_right (by rw [List.length_replicate]; omega), List.length_replicate, hk,
          List.getD_eq_getElem?_getD, getElem?_unbe64 _ (by omega)]
        rfl

/-- R81: the length field by division; a legal bit length is not truncated in it. -/
theorem padByte_lengthField {m : List Byte} {a : Nat} (hm : m.length < 2 ^ 61)
    (hlo : 64 * blockCount m.length - 8 ≤ a) (hhi : a < 64 * blockCount m.length) :
    padByte m a = BitVec.ofNat 8 (m.length * 8 / 2 ^ (56 - 8 * (a - (64 * blockCount m.length - 8)))) := by
  have hroom := add_nine_le_blocks m.length
  rw [padByte, if_neg (by omega), if_neg (by omega), if_neg (by omega), List.getD_eq_getElem?_getD,
    getElem?_unbe64 _ (by omega), toNat_bitLength hm]
  rfl

/-- R81, R82: the contents `PAD` gives `PM`. -/
theorem read_writeBytes_paddedBytes (m : List Byte) {a : Nat} (ha : a < 64 * blockCount m.length) :
    (Memory.writeBytes [] 0 (paddedBytes m)).read a = some (padByte m a) := by
  rw [Memory.read_writeBytes, if_pos ⟨Nat.zero_le a, by rwa [paddedBytes_length, Nat.zero_add]⟩, Nat.sub_zero,
    getElem?_paddedBytes m ha]

/-! `PAD` (R82). -/

/-- A read inside its space whose bytes all hold values answers them. -/
theorem exists_memRead_eq_ok {s : State} {sp : Space} {a n : Nat} (hsize : a + n ≤ s.size sp)
    (hheld : ∀ t, t < n → ∃ b, (s.space sp).read (a + t) = some b) : ∃ bs, memRead s sp a n = .ok bs := by
  choose byte hbyte using hheld
  refine ⟨List.ofFn fun t : Fin n => byte t t.isLt, memRead_eq_ok.2 ⟨hsize, List.length_ofFn, fun t ht => ?_⟩⟩
  rw [hbyte t ht, List.getElem?_ofFn, dif_pos ht]

/-- R82: the state after `PAD`, for the message `m` it read. -/
theorem exec_pad_of_memRead {s : State} {m : List Byte} (h : memRead s .msg 0 s.lreg.value.toNat = .ok m) :
    exec .pad s = .next { s with
      len := Slot.hold (BitVec.ofNat 64 (m.length * 8)), nblk := Slot.hold (BitVec.ofNat 56 (blockCount m.length)),
      pm := Memory.writeBytes [] 0 (paddedBytes m), phase := .padded, seq := 0x300#12 } := by
  simp only [exec, execPad, h]
  rfl

/-- Settles O14: `PAD` reads some `m`, and the four cases are those of `padByte m`. -/
theorem padWritesThePaddedMessage : Obligations.PadWritesThePaddedMessage := by
  intro s hlmax hheld
  have hl : s.lreg.value.toNat < 2 ^ 61 := lmax_used ▸ hlmax
  obtain ⟨m, hm⟩ := exists_memRead_eq_ok (s := s) (sp := .msg) (a := 0) (n := s.lreg.value.toNat)
    (by rw [State.size, lmax_used]; omega) (fun t ht => by rw [Nat.zero_add]; exact hheld t ht)
  obtain ⟨-, hlen, hread⟩ := memRead_eq_ok.1 hm
  refine ⟨_, exec_pad_of_memRead hm, rfl, ?_, rfl, ?_, fun a ha => ?_, rfl, rfl, rfl⟩
  · rw [Slot.hold_value, hlen, toNat_bitLength hl]
  · rw [Slot.hold_value, hlen, toNat_blockCount hl, blockCount_eq]
  · rw [← hlen, ← blockCount_eq] at ha ⊢
    rw [read_writeBytes_paddedBytes m ha]
    split
    · next hmsg =>
      rw [← getElem?_eq_padByte hmsg, ← hread a (hlen ▸ hmsg), Nat.zero_add]
      rfl
    · next hmsg =>
      split
      · next hmark => rw [padByte, if_neg hmsg, if_pos hmark]
      · next hmark =>
        split
        · next hzero => rw [padByte, if_neg hmsg, if_neg hmark, if_pos hzero]
        · next hzero => rw [padByte_lengthField (hlen ▸ hl) (Nat.le_of_not_lt hzero) ha]

/-- Settles O13: the closed forms, then the table evaluated. -/
theorem paddingLengthsAreClosedForms : Obligations.PaddingLengthsAreClosedForms := by
  refine ⟨fun l hl => ?_, by decide⟩
  have hnine := add_nine_le_blocks l
  exact ⟨blockCount_eq l, zeroCount_eq l, by omega, Nat.succ_pos _, blockCount_le hl, blocks_eq_parts l,
    zeroCount_le l, add_zeroCount_mod l, fun _ => zeroCount_least, zeroCount_eq_int_mod l, by omega,
    Nat.mul_mod_right 64 _, hnine, blocks_le_add l⟩

/-! The empty message (R84). -/

theorem paddedBytes_nil : paddedBytes [] = 0x80 :: List.replicate 63 0 := rfl

/-- R126: an input that passes both tests goes on to `PAD`. -/
theorem exec_chk_of_valid {s : State} (hp : s.pres.value = 1#1) (hl : s.lreg.value.toNat < Config.used.lmax) :
    exec .chk s = .next { s with seq := 0x200#12 } := by
  have hcheck : checkInput Config.used.lmax s.pres.value s.lreg.value = none := by
    rw [checkInput, if_neg (by rw [hp]; decide), if_neg (Nat.not_le.2 hl)]
  simp only [exec, execChk, hcheck]
  rfl

/-- R84: no byte of `MSG` is read. -/
theorem memRead_msg_empty {s : State} (hl : s.lreg.value = 0#64) : memRead s .msg 0 s.lreg.value.toNat = .ok [] := by
  rw [hl]
  exact memRead_eq_ok.2 ⟨Nat.zero_le _, rfl, fun t ht => absurd ht (Nat.not_lt_zero t)⟩

/-- Settles O17: with `L = 0` the message read is `[]`, from any `MSG`. -/
theorem emptyMessageSucceeds : Obligations.EmptyMessageSucceeds := by
  intro s m hp hl
  refine ⟨exec_chk_of_valid hp (by rw [hl]; decide), _, exec_pad_of_memRead (memRead_msg_empty hl),
    exec_pad_of_memRead (s := s.withMsg m) (memRead_msg_empty hl), rfl, rfl, rfl, ?_, fun a hlo hhi => ?_⟩
  · rw [paddedBytes_nil, Memory.read_writeBytes]
    rfl
  · obtain ⟨k, rfl⟩ : ∃ k, a = k + 1 := ⟨a - 1, by omega⟩
    have hin : k + 1 < 0 + (0x80 :: List.replicate 63 0 : List Byte).length := by
      rw [List.length_cons, List.length_replicate]; omega
    rw [paddedBytes_nil, Memory.read_writeBytes, if_pos ⟨Nat.zero_le _, hin⟩, Nat.sub_zero, List.getElem?_cons_succ,
      List.getElem?_replicate_of_lt (by omega)]

end Sys2Proof.Machine
end

section
/-! PROOFS. The Block Splitter of 41_block_splitter.md: `LDBLK` (R90). -/

namespace Sys2Proof.Machine

/-- R90: the state after `LDBLK`, for the block `bs` it read. -/
theorem exec_ldblk_of_memRead {s : State} {bs : List Byte} (h : memRead s .pm (blockAddress s) 64 = .ok bs) :
    exec .ldblk s = .next { s with blkbuf := s.blkbuf.writeBytes 0 bs, seq := 0x500#12 } := by
  simp only [exec, execLdblk, h]
  rfl

/-- R40, R90: below `NBLK` all 64 bytes of the block lie inside `PM`. -/
theorem blockAddress_add_le_size_pm {s : State} (h : s.blk.value.toNat < s.nblk.value.toNat) :
    blockAddress s + 64 ≤ s.size .pm := by
  rw [blockAddress, State.size]
  omega

/-- Settles O18: `LDBLK` reads some 64 bytes `bs`, and address `a` of `BLKBUF` is byte `a` of `bs` or as before. -/
theorem ldblkCopiesTheBlock : Obligations.LdblkCopiesTheBlock := by
  intro s hblk hheld
  obtain ⟨bs, hbs⟩ := exists_memRead_eq_ok (blockAddress_add_le_size_pm hblk) hheld
  obtain ⟨-, hlen, hread⟩ := memRead_eq_ok.1 hbs
  refine ⟨_, exec_ldblk_of_memRead hbs, fun a ha => ?_, fun a ha => ?_, rfl, rfl⟩
  · rw [Memory.read_writeBytes, if_pos ⟨Nat.zero_le a, by omega⟩, Nat.sub_zero]
    exact (hread a ha).symm
  · rw [Memory.read_writeBytes, if_neg (by omega)]

end Sys2Proof.Machine
end

section
/-! PROOFS. The permutations `P0`, `P1` (R94, R103) and the round functions `FF`, `GG` (R101, R102). -/

namespace Sys2Proof.Machine

theorem p0_eq (x : Word) : p0 x = x ^^^ rotl x 9 ^^^ rotl x 17 := rfl

theorem p1_eq (x : Word) : p1 x = x ^^^ rotl x 15 ^^^ rotl x 23 := rfl

theorem ff_of_lt (x y z : Word) {i : Nat} (hi : i < 16) : ff x y z i = x ^^^ y ^^^ z := if_pos hi

theorem gg_of_lt (x y z : Word) {i : Nat} (hi : i < 16) : gg x y z i = x ^^^ y ^^^ z := if_pos hi

theorem ff_of_le (x y z : Word) {i : Nat} (hi : 16 ≤ i) : ff x y z i = (x &&& y) ||| (x &&& z) ||| (y &&& z) :=
  if_neg (Nat.not_lt.2 hi)

theorem gg_of_le (x y z : Word) {i : Nat} (hi : 16 ≤ i) : gg x y z i = (x &&& y) ||| (~~~x &&& z) :=
  if_neg (Nat.not_lt.2 hi)

/-- R101: the majority is the bit `Y` and `Z` share, and where they differ `X` decides. -/
theorem getLsbD_ff_of_le (x y z : Word) {i : Nat} (hi : 16 ≤ i) (b : Nat) :
    (ff x y z i).getLsbD b = if y.getLsbD b = z.getLsbD b then y.getLsbD b else x.getLsbD b := by
  rw [ff_of_le x y z hi]
  simp only [BitVec.getLsbD_or, BitVec.getLsbD_and]
  generalize x.getLsbD b = p, y.getLsbD b = q, z.getLsbD b = r
  revert p q r
  decide

/-- R102: `X` chooses; the complement acts on the bits inside the word only. -/
theorem getLsbD_gg_of_le (x y z : Word) {i b : Nat} (hi : 16 ≤ i) (hb : b < 32) :
    (gg x y z i).getLsbD b = if x.getLsbD b then y.getLsbD b else z.getLsbD b := by
  rw [gg_of_le x y z hi]
  simp only [BitVec.getLsbD_or, BitVec.getLsbD_and, BitVec.getLsbD_not, hb, decide_true, Bool.true_and]
  cases x.getLsbD b <;> simp

/-- Settles O5: the forms on each side of round 16, and the later ones bit by bit; the fixed points are evaluated. -/
theorem roundFunctionsHaveTheirForms : Obligations.RoundFunctionsHaveTheirForms := by
  refine ⟨fun x => ⟨p0_eq x, p1_eq x⟩, by decide, by decide, by decide, by decide, fun x y z i hi => ?_,
    fun x y z i hi _ => ?_⟩
  · exact ⟨ff_of_lt x y z hi, gg_of_lt x y z hi⟩
  · exact ⟨ff_of_le x y z hi, gg_of_le x y z hi, fun b hb => ⟨getLsbD_ff_of_le x y z hi b, getLsbD_gg_of_le x y z hi hb⟩⟩

end Sys2Proof.Machine
end

section
/-! PROOFS. The Message Expander of 42_message_expander.md: `LDW` (R95), `WGEN` (R96) and `WPGEN` (R97). -/

namespace Sys2Proof.Machine

/-! What the three share: the element of `XW` written, the successor in `SEQ` (R132), the elements an index names. -/

theorem State.withXw_getElem_same (s : State) (d : Fin 132) (v : Word) : (s.withXw d v).xw[d] = Slot.hold v :=
  Vector.getElem_set_self d.isLt

theorem State.withXw_getElem_other (s : State) {d k : Fin 132} (v : Word) (h : k ≠ d) :
    (s.withXw d v).xw[k] = s.xw[k] :=
  Vector.getElem_set_ne d.isLt k.isLt (Fin.val_ne_of_ne h.symm)

/-- R62: the two fields do not overlap, so the control word is their sum. -/
theorem toNat_controlWord (op : OpCode) (idx : BitVec 7) :
    (controlWord op idx).toNat = op.code.toNat * 2 ^ 8 + idx.toNat := by
  have hop := op.code.isLt
  have hidx := idx.isLt
  rw [controlWord, BitVec.toNat_ofNat, Nat.mod_eq_of_lt (by omega)]

/-- R132: below a last index that fits the 7-bit field, `idx + 1` does not wrap. -/
theorem toNat_nextIndexed (op : OpCode) (idx : BitVec 7) {last : Nat} (after : BitVec 12) (hlast : last < 2 ^ 7) :
    (nextIndexed op idx last after).toNat =
      if idx.toNat < last then op.code.toNat * 2 ^ 8 + idx.toNat + 1 else after.toNat := by
  rw [nextIndexed]
  split
  · next hlt =>
    have hsucc : (idx + 1).toNat = idx.toNat + 1 := BitVec.toNat_add_of_lt (Nat.lt_of_le_of_lt hlt hlast)
    rw [toNat_controlWord, hsucc, Nat.add_assoc]
  · rfl

theorem wSlot_eq {k : Fin 132} {n : Nat} (h : n ≤ 67) (hk : k.val = n) : wSlot n h = k := Fin.ext hk.symm

theorem wpSlot_eq {k : Fin 132} {n : Nat} (h : n ≤ 63) (hk : k.val = 68 + n) : wpSlot n h = k := Fin.ext hk.symm

/-! `LDW` (R95). -/

/-- R7: four bytes below 256 fill the word exactly, so nothing is reduced. -/
theorem toNat_be32 (b0 b1 b2 b3 : Byte) :
    (be32 b0 b1 b2 b3).toNat = b0.toNat * 2 ^ 24 + b1.toNat * 2 ^ 16 + b2.toNat * 2 ^ 8 + b3.toNat := by
  rw [be32, BitVec.toNat_ofNat, Nat.mod_eq_of_lt (by omega)]

/-- A read of four bytes that all hold values. -/
theorem memRead_four {s : State} {sp : Space} {a : Nat} {b0 b1 b2 b3 : Byte} (hsize : a + 4 ≤ s.size sp)
    (h0 : (s.space sp).read a = some b0) (h1 : (s.space sp).read (a + 1) = some b1)
    (h2 : (s.space sp).read (a + 2) = some b2) (h3 : (s.space sp).read (a + 3) = some b3) :
    memRead s sp a 4 = .ok [b0, b1, b2, b3] := by
  refine memRead_eq_ok.2 ⟨hsize, rfl, fun t ht => ?_⟩
  match t, ht with
  | 0, _ => exact h0
  | 1, _ => exact h1
  | 2, _ => exact h2
  | 3, _ => exact h3

/-- R95: the state after `LDW j`, for the bytes `bs` it read; `d` is the element `j` names. -/
theorem exec_ldw_of_memRead {s : State} {j : BitVec 7} {d : Fin 132} {bs : List Byte} (hj : j.toNat ≤ 15)
    (hd : d.val = j.toNat) (h : memRead s .blkbuf (ldwAddress j) 4 = .ok bs) :
    exec (.ldw j) s =
      .next ((s.withXw d (be32List bs)).withSeq (nextIndexed .ldw j 15 (controlWord .wgen 16))) := by
  simp only [exec, execLdw, dif_pos hj, h, wSlot_eq _ hd]

/-- Settles O20: `LDW` reads the four bytes, and their big-endian word is what `XW[j]` then holds. -/
theorem ldwLoadsTheWord : Obligations.LdwLoadsTheWord := by
  intro s j d b0 b1 b2 b3 hj hd h0 h1 h2 h3
  have hsize : ldwAddress j + 4 ≤ s.size .blkbuf := by rw [ldwAddress, State.size]; omega
  have hread : memRead s .blkbuf (ldwAddress j) 4 = .ok [b0, b1, b2, b3] := memRead_four hsize h0 h1 h2 h3
  refine ⟨_, exec_ldw_of_memRead hj hd hread, ?_, ?_, fun k hk => State.withXw_getElem_other s _ hk,
    toNat_nextIndexed .ldw j _ (by decide), rfl⟩
  · rw [State.withSeq_xw, State.withXw_getElem_same, Slot.hold_held]
  · rw [State.withSeq_xw, State.withXw_getElem_same, Slot.hold_value]
    exact toNat_be32 b0 b1 b2 b3

/-! `WGEN` (R96). -/

/-- R96: the state after `WGEN j`; `d` is the element `j` names and `k16` to `k6` the five before it that it reads. -/
theorem exec_wgen_of_le {s : State} {j : BitVec 7} {d k16 k9 k3 k13 k6 : Fin 132} (hlo : 16 ≤ j.toNat)
    (hhi : j.toNat ≤ 67) (hd : d.val = j.toNat) (h16 : k16.val + 16 = j.toNat) (h9 : k9.val + 9 = j.toNat)
    (h3 : k3.val + 3 = j.toNat) (h13 : k13.val + 13 = j.toNat) (h6 : k6.val + 6 = j.toNat) :
    exec (.wgen j) s =
      .next ((s.withXw d (wgenWord (s.xwWord k16) (s.xwWord k9) (s.xwWord k3) (s.xwWord k13) (s.xwWord k6))).withSeq
        (nextIndexed .wgen j 67 (controlWord .wpgen 0))) := by
  simp only [exec, execWgen, dif_pos (And.intro hlo hhi), wSlot_eq _ hd, wSlot_eq _ (Nat.eq_sub_of_add_eq h16),
    wSlot_eq _ (Nat.eq_sub_of_add_eq h9), wSlot_eq _ (Nat.eq_sub_of_add_eq h3), wSlot_eq _ (Nat.eq_sub_of_add_eq h13),
    wSlot_eq _ (Nat.eq_sub_of_add_eq h6)]

/-- Settles O21: the word written is `wgenWord`, whose `P1` the statement writes out. -/
theorem wgenComputesTheWord : Obligations.WgenComputesTheWord := by
  intro s j d k16 k9 k3 k13 k6 hlo hhi hd h16 h9 h3 h13 h6
  exact ⟨_, exec_wgen_of_le hlo hhi hd h16 h9 h3 h13 h6, State.withXw_getElem_same s d _,
    fun k hk => State.withXw_getElem_other s _ hk, toNat_nextIndexed .wgen j _ (by decide), rfl⟩

/-! `WPGEN` (R97). -/

/-- R97: the state after `WPGEN j`; `d` is the element `68 + j`, `k` and `k4` the elements `j` and `j + 4`. -/
theorem exec_wpgen_of_le {s : State} {j : BitVec 7} {d k k4 : Fin 132} (hj : j.toNat ≤ 63)
    (hd : d.val = 68 + j.toNat) (hk : k.val = j.toNat) (hk4 : k4.val = j.toNat + 4) :
    exec (.wpgen j) s =
      .next (((s.withXw d (s.xwWord k ^^^ s.xwWord k4)).withPhase
        (if j.toNat = 63 then .expanded else s.phase)).withSeq (nextIndexed .wpgen j 63 (controlWord .save 0))) := by
  simp only [exec, execWpgen, dif_pos hj, wpSlot_eq hj hd, wSlot_eq _ hk, wSlot_eq _ hk4]

/-- Settles O22: one word written, and `PHASE` written back as it was unless `j = 63`. -/
theorem wpgenXorsTwoWords : Obligations.WpgenXorsTwoWords := by
  intro s j d k k4 hj hd hk hk4
  exact ⟨_, exec_wpgen_of_le hj hd hk hk4, State.withXw_getElem_same s d _,
    fun n hn => State.withXw_getElem_other s _ hn, rfl, toNat_nextIndexed .wpgen j _ (by decide), rfl⟩

end Sys2Proof.Machine
end

section
/-! PROOFS. The Compression Function of 43_compression.md: `SAVE` (R104), `ROUND` (R105) and `FFWD` (R106). -/

namespace Sys2Proof.Machine

/-! Eight elements written together (R8): the words they then hold, each of them held. -/

theorem octetList_octetMap {α β : Type} (f : α → β) (x : Octet α) : octetList (octetMap f x) = (octetList x).map f := rfl

theorem octetList_octetZip {α β γ : Type} (f : α → β → γ) (x : Octet α) (y : Octet β) :
    octetList (octetZip f x y) = List.zipWith f (octetList x) (octetList y) := rfl

theorem octetHeld_octetMap_hold (v : Octet Word) : octetHeld (octetMap Slot.hold v) := by
  rw [octetHeld, octetList_octetMap]
  exact List.forall_mem_map.2 fun w _ => Slot.hold_held w

@[simp] theorem State.withSeq_regWords (s : State) (w : BitVec 12) : (s.withSeq w).regWords = s.regWords := rfl

@[simp] theorem State.withPhase_regWords (s : State) (p : Phase) : (s.withPhase p).regWords = s.regWords := rfl

@[simp] theorem State.withSeq_savedWords (s : State) (w : BitVec 12) : (s.withSeq w).savedWords = s.savedWords := rfl

@[simp] theorem State.withRegs_regWords (s : State) (v : Octet Word) : (s.withRegs v).regWords = v := rfl

@[simp] theorem State.withSaved_savedWords (s : State) (v : Octet Word) : (s.withSaved v).savedWords = v := rfl

/-! `SAVE` (R104). -/

theorem exec_save (s : State) : exec .save s = .next ((s.withSaved s.regWords).withSeq 0x900#12) := rfl

/-- Settles O24: the words saved are those of `A..H`, and writing an element makes it held. -/
theorem saveCopiesTheState : Obligations.SaveCopiesTheState := by
  intro s
  refine ⟨_, exec_save s, ?_, octetHeld_octetMap_hold s.regWords, State.withSeq_seq _ _, rfl⟩
  rw [State.withSeq_savedWords, State.withSaved_savedWords]

/-! `ROUND` (R105). -/

theorem add32x3_eq (a b c : Word) : add32x3 a b c = a + b + c := rfl

theorem add32x4_eq (a b c d : Word) : add32x4 a b c d = a + b + c + d := rfl

theorem ss1_eq (r : Octet Word) (i : Nat) :
    ss1 r i = rotl (rotl r.a 12 + r.e + rotl (if i < 16 then 0x79cc4519 else 0x7a879d8a) (i % 32)) 7 := by
  rw [ss1, add32x3_eq, trom_eq_rotl, roundConstant_eq]

theorem tt1_eq (r : Octet Word) (i : Nat) (wp : Word) :
    tt1 r i wp =
      (if i < 16 then r.a ^^^ r.b ^^^ r.c else (r.a &&& r.b) ||| (r.a &&& r.c) ||| (r.b &&& r.c)) + r.d +
        (ss1 r i ^^^ rotl r.a 12) + wp := by
  rw [tt1, add32x4_eq, ff, ss2]

theorem tt2_eq (r : Octet Word) (i : Nat) (w : Word) :
    tt2 r i w =
      (if i < 16 then r.e ^^^ r.f ^^^ r.g else (r.e &&& r.f) ||| (~~~r.e &&& r.g)) + r.h + ss1 r i + w := by
  rw [tt2, add32x4_eq, gg]

/-- R105: the state after `ROUND i`; `k` and `k'` are the elements of `W[i]` and `W'[i]`. -/
theorem exec_round_of_le {s : State} {i : BitVec 7} {k k' : Fin 132} (hi : i.toNat ≤ 63) (hk : k.val = i.toNat)
    (hk' : k'.val = 68 + i.toNat) :
    exec (.round i) s =
      .next ((s.withRegs (roundRegs s.regWords i.toNat (s.xwWord k) (s.xwWord k'))).withSeq
        (nextIndexed .round i 63 (controlWord .ffwd 0))) := by
  simp only [exec, execRound, dif_pos hi, wSlot_eq _ hk, wpSlot_eq hi hk']

/-- Settles O25: the registers are `roundRegs` of the old ones, whose `TT1` takes `W'[i]` and whose `TT2` takes
`W[i]`. -/
theorem roundUpdatesTheRegisters : Obligations.RoundUpdatesTheRegisters := by
  intro s i k k' hi hk hk' r c s1 s2 f g t1 t2
  have hs1 : ss1 r i.toNat = s1 := ss1_eq r i.toNat
  have ht1 : tt1 r i.toNat (s.xwWord k') = t1 := by rw [tt1_eq, hs1]; rfl
  have ht2 : tt2 r i.toNat (s.xwWord k) = t2 := by rw [tt2_eq, hs1]; rfl
  refine ⟨_, exec_round_of_le hi hk hk', ?_, octetHeld_octetMap_hold _, toNat_nextIndexed .round i _ (by decide), rfl⟩
  rw [State.withSeq_regWords, State.withRegs_regWords, roundRegs, ht1, ht2, p0_eq]

/-! `FFWD` (R106). -/

theorem exec_ffwd (s : State) :
    exec .ffwd s =
      .next (((s.withRegs (feedForward s.regWords s.savedWords)).withPhase .compressed).withSeq 0xB00#12) := rfl

/-- Settles O27: `A..H` become the feed-forward of their old words with those of `SAVE`, element by element. -/
theorem ffwdXorsTheSavedState : Obligations.FfwdXorsTheSavedState := by
  intro s
  refine ⟨_, exec_ffwd s, ?_, octetHeld_octetMap_hold _, ?_, State.withSeq_seq _ _, rfl⟩
  · rw [State.withSeq_regWords, State.withPhase_regWords, State.withRegs_regWords, feedForward, octetList_octetZip]
  · rw [State.withSeq_phase, State.withPhase_phase]

end Sys2Proof.Machine
end

section
/-! PROOFS. The Digest Assembler of 44_digest_assembler.md: `DIGEST` (R115), `HEX` (R117) and the consistency of the two
views (R118). -/

namespace Sys2Proof.Machine

/-! What the two share: every register is laid out in equally many bytes, written from address 0 on. -/

/-- Element `n` of block `r`, where every block has the one length `k`. -/
theorem getElem?_flatMap_of_length {α β : Type} {f : α → List β} {k : Nat} (hf : ∀ x, (f x).length = k) {l : List α}
    {r n : Nat} {x : α} (hx : l[r]? = some x) (hn : n < k) : (l.flatMap f)[k * r + n]? = (f x)[n]? := by
  induction l generalizing r with
  | nil => exact absurd hx (by simp)
  | cons y l ih =>
    rw [List.flatMap_cons]
    cases r with
    | zero =>
      obtain rfl : y = x := Option.some.inj hx
      rw [Nat.mul_zero, Nat.zero_add, List.getElem?_append_left (by rw [hf]; exact hn)]
    | succ r =>
      have hlen : k * (r + 1) + n = (f y).length + (k * r + n) := by rw [hf, Nat.mul_succ]; omega
      rw [hlen, List.getElem?_append_right (Nat.le_add_right _ _), Nat.add_sub_cancel_left]
      exact ih hx

theorem Memory.read_writeBytes_zero_of_getElem? (m : Memory) {bs : List Byte} {a : Nat} {b : Byte}
    (h : bs[a]? = some b) : (m.writeBytes 0 bs).read a = some b := by
  obtain ⟨hlt, -⟩ := List.getElem?_eq_some_iff.1 h
  rw [Memory.read_writeBytes, if_pos ⟨Nat.zero_le a, by omega⟩, Nat.sub_zero, h]

theorem Memory.read_writeBytes_zero_of_length_le (m : Memory) {bs : List Byte} {a : Nat} (h : bs.length ≤ a) :
    (m.writeBytes 0 bs).read a = m.read a := by
  rw [Memory.read_writeBytes, if_neg (by omega)]

/-- A field of a register by division; `BitVec.ofNat` takes the remainder. -/
theorem extractLsb'_eq_ofNat_div (w : Word) (i k : Nat) : w.extractLsb' i k = BitVec.ofNat k (w.toNat / 2 ^ i) := by
  rw [BitVec.extractLsb', Nat.shiftRight_eq_div_pow]

theorem exists_octetList_getElem? {α : Type} (x : Octet α) {r : Nat} (hr : r < 8) : ∃ y, (octetList x)[r]? = some y :=
  ⟨_, List.getElem?_eq_getElem (l := octetList x) hr⟩

/-! `DIGEST` (R115). -/

theorem unbe32_length (w : Word) : (unbe32 w).length = 4 := rfl

theorem getElem?_unbe32 (w : Word) {n : Nat} (hn : n < 4) :
    (unbe32 w)[n]? = some (w.extractLsb' (24 - 8 * n) 8) := by
  match n, hn with
  | 0, _ => rfl
  | 1, _ => rfl
  | 2, _ => rfl
  | 3, _ => rfl

/-- R115: `DG[4r + n]` once the digest is written. -/
theorem read_writeBytes_digestBytes (m : Memory) {x : Octet Word} {r n : Nat} {w : Word}
    (hw : (octetList x)[r]? = some w) (hn : n < 4) :
    (m.writeBytes 0 (digestBytes x)).read (4 * r + n) = some (w.extractLsb' (24 - 8 * n) 8) := by
  apply Memory.read_writeBytes_zero_of_getElem?
  rw [digestBytes, getElem?_flatMap_of_length unbe32_length hw hn, getElem?_unbe32 w hn]

theorem exec_digest (s : State) :
    exec .digest s =
      .next (((s.withDg (s.dg.writeBytes 0 (digestBytes s.regWords))).withPhase .finalized).withSeq
        (if s.cmdop.value = 1#1 then 0xD00#12 else 0xE00#12)) := rfl

@[simp] theorem State.withDg_regWords (s : State) (m : Memory) : (s.withDg m).regWords = s.regWords := rfl

/-- R115: the digest is in `DG`, and the registers `HEX` reads next are unchanged. -/
theorem dg_regWords_of_exec_digest {s t : State} (h : exec .digest s = .next t) :
    t.dg = s.dg.writeBytes 0 (digestBytes s.regWords) ∧ t.regWords = s.regWords := by
  obtain rfl := Host.Outcome.next.inj ((exec_digest s).symm.trans h)
  exact ⟨by rw [State.withSeq_dg, State.withPhase_dg, State.withDg_dg],
    by rw [State.withSeq_regWords, State.withPhase_regWords, State.withDg_regWords]⟩

/-- The bytes written stay a variable, so that the equality of records is not decided by computing them. -/
theorem State.frame_of_withDg_withPhase_withSeq {s t : State} {m : Memory} {p : Phase} {w : BitVec 12}
    (h : t = ((s.withDg m).withPhase p).withSeq w) : t = { s with dg := t.dg, phase := t.phase, seq := t.seq } := by
  subst h
  rfl

/-- Settles O28: byte `n` of block `r` of the digest is the byte of `R[r]`, and the digest ends at address 32. -/
theorem digestStoresBigEndianRegisters : Obligations.DigestStoresBigEndianRegisters := by
  intro s
  obtain ⟨hdg, -⟩ := dg_regWords_of_exec_digest (exec_digest s)
  refine ⟨_, exec_digest s, fun r w hw n hn => ?_, fun a ha => ?_, rfl, rfl,
    State.frame_of_withDg_withPhase_withSeq rfl⟩
  · rw [hdg, read_writeBytes_digestBytes s.dg hw hn, extractLsb'_eq_ofNat_div]
  · rw [hdg, Memory.read_writeBytes_zero_of_length_le s.dg (digestBytes_length s.regWords ▸ ha)]

/-! `HEX` (R117). -/

theorem hexWord_length (w : Word) : (hexWord w).length = 8 := rfl

theorem getElem?_hexWord (w : Word) {d : Nat} (hd : d < 8) :
    (hexWord w)[d]? = some (hexchar (w.extractLsb' (28 - 4 * d) 4)) := by
  rw [hexWord, List.getElem?_map, List.getElem?_range hd, Option.map_some]

/-- R117: `HX[8r + d]` once the view is written. -/
theorem read_writeBytes_hexBytes (m : Memory) {x : Octet Word} {r d : Nat} {w : Word}
    (hw : (octetList x)[r]? = some w) (hd : d < 8) :
    (m.writeBytes 0 (hexBytes x)).read (8 * r + d) = some (hexchar (w.extractLsb' (28 - 4 * d) 4)) := by
  apply Memory.read_writeBytes_zero_of_getElem?
  rw [hexBytes, getElem?_flatMap_of_length hexWord_length hw hd, getElem?_hexWord w hd]

theorem exec_hex (s : State) :
    exec .hex s = .next ((s.withHx (s.hx.writeBytes 0 (hexBytes s.regWords))).withSeq 0xE00#12) := rfl

/-- R117: the view is in `HX`, and the digest in `DG` is unchanged. -/
theorem hx_dg_of_exec_hex {s t : State} (h : exec .hex s = .next t) :
    t.hx = s.hx.writeBytes 0 (hexBytes s.regWords) ∧ t.dg = s.dg := by
  obtain rfl := Host.Outcome.next.inj ((exec_hex s).symm.trans h)
  exact ⟨by rw [State.withSeq_hx, State.withHx_hx], by rw [State.withSeq_dg, State.withHx_dg]⟩

/-- As for `DIGEST`, the bytes written stay a variable. -/
theorem State.frame_of_withHx_withSeq {s t : State} {m : Memory} {w : BitVec 12}
    (h : t = (s.withHx m).withSeq w) : t = { s with hx := t.hx, seq := t.seq } := by
  subst h
  rfl

/-- Settles O29: character `d` of block `r` of the view is that of the nibble of `R[r]`, and the view ends at
address 64. -/
theorem hexWritesEightCharactersPerRegister : Obligations.HexWritesEightCharactersPerRegister := by
  intro s
  obtain ⟨hhx, -⟩ := hx_dg_of_exec_hex (exec_hex s)
  refine ⟨_, exec_hex s, fun r w hw d hd => ?_, fun a ha => ?_, rfl, State.frame_of_withHx_withSeq rfl⟩
  · rw [hhx, read_writeBytes_hexBytes s.hx hw hd, extractLsb'_eq_ofNat_div]
  · rw [hhx, Memory.read_writeBytes_zero_of_length_le s.hx (hexBytes_length s.regWords ▸ ha)]

/-! The two views (R118). -/

/-- A field that lies inside a field of a register is a field of the register. -/
theorem extractLsb'_extractLsb' (w : Word) {i k j l : Nat} (h : j + l ≤ k) :
    (w.extractLsb' i k).extractLsb' j l = w.extractLsb' (i + j) l := by
  ext b hb
  rw [BitVec.getElem_extractLsb', BitVec.getLsbD_extractLsb', BitVec.getElem_extractLsb',
    decide_eq_true (by omega : j + b < k), Bool.true_and, Nat.add_assoc]

/-- Settles O30: byte `4r + n` of `DG` is bits `24 - 8n` to `31 - 8n` of `R[r]`, whose halves are the nibbles `2n` and
`2n + 1` that `HEX` reads from `R[r]`, which `DIGEST` has not changed. -/
theorem hexViewAgreesWithDigest : Obligations.HexViewAgreesWithDigest := by
  intro s t u ht hu b hb
  obtain ⟨htdg, htregs⟩ := dg_regWords_of_exec_digest ht
  obtain ⟨huhx, hudg⟩ := hx_dg_of_exec_hex hu
  rw [hudg, htdg, huhx, htregs]
  obtain ⟨r, n, hn, rfl⟩ : ∃ r n, n < 4 ∧ b = 4 * r + n := ⟨b / 4, b % 4, by omega, by omega⟩
  obtain ⟨w, hw⟩ := exists_octetList_getElem? s.regWords (r := r) (by omega)
  refine ⟨_, read_writeBytes_digestBytes s.dg hw hn, ?_, ?_⟩
  · have haddr : 2 * (4 * r + n) = 8 * r + 2 * n := by omega
    have hbit : 24 - 8 * n + 4 = 28 - 4 * (2 * n) := by omega
    rw [haddr, read_writeBytes_hexBytes t.hx hw (by omega), extractLsb'_extractLsb' w (by decide), hbit]
  · have haddr : 2 * (4 * r + n) + 1 = 8 * r + (2 * n + 1) := by omega
    have hbit : 24 - 8 * n + 0 = 28 - 4 * (2 * n + 1) := by omega
    rw [haddr, read_writeBytes_hexBytes t.hx hw (by omega), extractLsb'_extractLsb' w (by decide), hbit]

end Sys2Proof.Machine
end

section
/-! PROOFS. The boundary micro-operations of 45_sequencer_and_host.md: `CHK` (R126), `INIT` (R127) and `DONE` (R128). -/

namespace Sys2Proof.Machine

/-! The two tests of `CHK`, for any bound (R142 to R144). -/

theorem checkInput_of_absent (lmax : Nat) {present : BitVec 1} (len : BitVec 64) (hp : present = 0#1) :
    checkInput lmax present len = some .nullInput := if_pos hp

theorem checkInput_of_le {lmax : Nat} {present : BitVec 1} {len : BitVec 64} (hp : present = 1#1)
    (hl : lmax ≤ len.toNat) : checkInput lmax present len = some .inputTooLarge := by
  have hpresent : present ≠ 0#1 := by rw [hp]; decide
  rw [checkInput, if_neg hpresent, if_pos hl]

/-! `CHK` (R126); `exec_chk_of_valid` is the case in which both tests pass. -/

/-- R126, R141: a failed test raises its error, which writes the response and `SEQ`. -/
theorem exec_chk_of_error {s : State} {e : HashError}
    (h : checkInput Config.used.lmax s.pres.value s.lreg.value = some e) :
    exec .chk s = .next { s with rspStatus := e.status, rspValid := 1#1, seq := 0x000#12 } := by
  simp only [exec, execChk, h]
  exact congrArg Host.Outcome.next (raise_eq e s)

/-- Settles O32: one clause for each answer of the two tests. -/
theorem chkTestsPresenceThenLength : Obligations.ChkTestsPresenceThenLength := by
  intro s
  refine ⟨fun hp => ?_, fun hp hl => ?_, exec_chk_of_valid⟩
  · exact exec_chk_of_error (checkInput_of_absent _ _ hp)
  · exact exec_chk_of_error (checkInput_of_le hp hl)

/-! `INIT` (R127). -/

@[simp] theorem State.withBlk_regWords (s : State) (v : BitVec 56) : (s.withBlk v).regWords = s.regWords := rfl

theorem exec_init (s : State) :
    exec .init s = .next (((s.withRegs Config.used.iv).withBlk 0).withSeq 0x400#12) := rfl

/-- Settles O34: the words written to `A..H` are the vector's, and writing an element makes it held. -/
theorem initLoadsTheInitialVector : Obligations.InitLoadsTheInitialVector := by
  intro s
  refine ⟨_, exec_init s, ?_, octetHeld_octetMap_hold Config.used.iv, ?_, State.withSeq_seq _ _, rfl⟩
  · rw [State.withSeq_regWords, State.withBlk_regWords, State.withRegs_regWords]
  · rw [State.withSeq_blk, State.withBlk_blk, Slot.hold]

/-! `DONE` (R128). -/

theorem exec_done (s : State) :
    exec .done s = .next (((s.withRspStatus .ok).withRspValid 1#1).withSeq 0x000#12) := rfl

/-- Settles O35: the three writes of `DONE` are the three fields named. -/
theorem doneRespondsOk : Obligations.DoneRespondsOk := by
  intro s
  exact ⟨exec_done s, rfl⟩

end Sys2Proof.Machine
end

section
/-! PROOFS. The round trip of 30_encoding.md: encoding and decoding of control words (R62, R63) and of host command
words (R60) undo each other. -/

namespace Sys2Proof.Machine

/-! Control words (R62, R63). -/

/-- Every well-formed instruction is a micro-operation with an index in its legal range, or a host command. -/
theorem Instr.wf_cases {i : Instr} (h : i.wf = true) :
    (∃ op idx, op.legalIdx idx = true ∧ i = instrOf op idx) ∨
      ∃ p l, i = .compute p l ∨ i = .computeHex p l := by
  cases i with
  | wait => exact .inl ⟨.wait, 0, rfl, rfl⟩
  | chk => exact .inl ⟨.chk, 0, rfl, rfl⟩
  | pad => exact .inl ⟨.pad, 0, rfl, rfl⟩
  | init => exact .inl ⟨.init, 0, rfl, rfl⟩
  | ldblk => exact .inl ⟨.ldblk, 0, rfl, rfl⟩
  | save => exact .inl ⟨.save, 0, rfl, rfl⟩
  | ffwd => exact .inl ⟨.ffwd, 0, rfl, rfl⟩
  | nxtb => exact .inl ⟨.nxtb, 0, rfl, rfl⟩
  | digest => exact .inl ⟨.digest, 0, rfl, rfl⟩
  | hex => exact .inl ⟨.hex, 0, rfl, rfl⟩
  | done => exact .inl ⟨.done, 0, rfl, rfl⟩
  | ldw j => exact .inl ⟨.ldw, j, (OpCode_legalIdx_iff _ _).2 (of_decide_eq_true h), rfl⟩
  | wgen j => exact .inl ⟨.wgen, j, (OpCode_legalIdx_iff _ _).2 (of_decide_eq_true h), rfl⟩
  | wpgen j => exact .inl ⟨.wpgen, j, (OpCode_legalIdx_iff _ _).2 (of_decide_eq_true h), rfl⟩
  | round j => exact .inl ⟨.round, j, (OpCode_legalIdx_iff _ _).2 (of_decide_eq_true h), rfl⟩
  | compute p l => exact .inr ⟨p, l, .inl rfl⟩
  | computeHex p l => exact .inr ⟨p, l, .inr rfl⟩

theorem wf_instrOf {op : OpCode} {idx : BitVec 7} (h : op.legalIdx idx = true) : (instrOf op idx).wf = true := by
  rw [OpCode_legalIdx_iff] at h
  cases op with
  | ldw | wgen | wpgen | round => exact decide_eq_true h
  | wait | chk | pad | init | ldblk | save | ffwd | nxtb | digest | hex | done => rfl

/-- R64: an operation without index has 0 in the field, the only index legal there. -/
theorem encode_instrOf {op : OpCode} {idx : BitVec 7} (h : op.legalIdx idx = true) :
    encode (instrOf op idx) = .u (controlWord op idx) := by
  rw [OpCode_legalIdx_iff] at h
  cases op with
  | ldw | wgen | wpgen | round => rfl
  | wait | chk | pad | init | ldblk | save | ffwd | nxtb | digest | hex | done =>
    obtain rfl : idx = 0 := BitVec.eq_of_toNat_eq h
    rfl

theorem decodeU_controlWord_of_legal {op : OpCode} {idx : BitVec 7} (h : op.legalIdx idx = true) :
    decodeU (controlWord op idx) = .ok (instrOf op idx) := by
  rw [decodeU_controlWord, if_pos h]

/-- R62: a word with `Z = 0` is its two other fields put together. -/
theorem controlWord_of_fields {w : BitVec 12} {op : OpCode} (hop : op.code = w.extractLsb' 8 4)
    (hz : w.extractLsb' 7 1 ≠ 1#1) : controlWord op (w.extractLsb' 0 7) = w := by
  rw [Ne, zField_eq_one_iff] at hz
  apply BitVec.eq_of_toNat_eq
  rw [toNat_controlWord, hop, toNat_opField, toNat_idxField]
  omega

/-- A decoded control word is that of a micro-operation with a legal index. -/
theorem exists_of_decodeU {w : BitVec 12} {i : Instr} (h : decodeU w = .ok i) :
    ∃ op idx, op.legalIdx idx = true ∧ i = instrOf op idx ∧ w = controlWord op idx := by
  rw [decodeU] at h
  split at h
  · cases h
  · next op hop =>
    split at h
    · cases h
    · next hz =>
      split at h
      · next hl =>
        cases h
        exact ⟨op, _, hl, rfl, (controlWord_of_fields (OpCode_code_of_ofCode _ op hop) hz).symm⟩
      · cases h

/-! Host command words (R60). -/

theorem toNat_commandWord (op p : BitVec 1) (l : BitVec 64) :
    (commandWord op p l).toNat = op.toNat * 2 ^ 65 + p.toNat * 2 ^ 64 + l.toNat := by
  rw [commandWord, BitVec.toNat_ofNat, Nat.mod_eq_of_lt (by omega)]

theorem commandWord_op (op p : BitVec 1) (l : BitVec 64) : (commandWord op p l).extractLsb' 65 1 = op := by
  apply BitVec.eq_of_toNat_eq
  rw [BitVec.extractLsb'_toNat, toNat_commandWord, Nat.shiftRight_eq_div_pow]
  omega

theorem commandWord_present (op p : BitVec 1) (l : BitVec 64) : (commandWord op p l).extractLsb' 64 1 = p := by
  apply BitVec.eq_of_toNat_eq
  rw [BitVec.extractLsb'_toNat, toNat_commandWord, Nat.shiftRight_eq_div_pow]
  omega

theorem commandWord_len (op p : BitVec 1) (l : BitVec 64) : (commandWord op p l).extractLsb' 0 64 = l := by
  apply BitVec.eq_of_toNat_eq
  rw [BitVec.extractLsb'_toNat, toNat_commandWord, Nat.shiftRight_zero]
  omega

/-- The word is its three fields put together. -/
theorem commandWord_of_fields (w : BitVec 66) :
    commandWord (w.extractLsb' 65 1) (w.extractLsb' 64 1) (w.extractLsb' 0 64) = w := by
  apply BitVec.eq_of_toNat_eq
  rw [toNat_commandWord, BitVec.extractLsb'_toNat, BitVec.extractLsb'_toNat, BitVec.extractLsb'_toNat,
    Nat.shiftRight_eq_div_pow, Nat.shiftRight_eq_div_pow, Nat.shiftRight_zero]
  omega

theorem decodeHC_commandWord (op p : BitVec 1) (l : BitVec 64) :
    decodeHC (commandWord op p l) = if op = 1#1 then .computeHex p l else .compute p l := by
  rw [decodeHC, commandWord_op, commandWord_present, commandWord_len]

theorem encode_decodeHC (w : BitVec 66) : encode (decodeHC w) = .hc w := by
  have hw := commandWord_of_fields w
  rw [decodeHC]
  split
  · next hop =>
    rw [hop] at hw
    exact congrArg CodeWord.hc hw
  · next hop =>
    rw [(BitVec.eq_zero_or_eq_one _).resolve_right hop] at hw
    exact congrArg CodeWord.hc hw

theorem wf_decodeHC (w : BitVec 66) : (decodeHC w).wf = true := by
  rw [decodeHC]
  split <;> rfl

/-! The two directions. -/

/-- Settles O7: a well-formed instruction is a micro-operation with a legal index or a host command, and either word
has the fields it was made from. -/
theorem decodeInvertsEncode : Obligations.DecodeInvertsEncode := by
  intro i hi
  obtain ⟨op, idx, hl, rfl⟩ | ⟨p, l, rfl | rfl⟩ := Instr.wf_cases hi
  · rw [encode_instrOf hl]
    exact decodeU_controlWord_of_legal hl
  · exact congrArg Except.ok (decodeHC_commandWord 0 p l)
  · exact congrArg Except.ok (decodeHC_commandWord 1 p l)

/-- Settles O8: what a control word decodes to has its fields, and every host command word is its fields. -/
theorem encodeInvertsDecode : Obligations.EncodeInvertsDecode := by
  intro c i h
  cases c with
  | u w =>
    obtain ⟨op, idx, hl, rfl, rfl⟩ := exists_of_decodeU h
    exact ⟨encode_instrOf hl, wf_instrOf hl⟩
  | hc w =>
    cases h
    exact ⟨encode_decodeHC w, wf_decodeHC w⟩

/-- Settles O10: the ten words evaluated. -/
theorem sampleWordsDecode : Obligations.SampleWordsDecode := by
  unfold Obligations.SampleWordsDecode
  decide

end Sys2Proof.Machine
end

section
/-! PROOFS. The inversion of `exec`: the ways each instruction completes, and the instruction a legal `SEQ` makes a step
run (R28, R125). -/

namespace Sys2Proof.Machine

/-- The ways an instruction answers a next state, one constructor for each: what `exec` can do, said once. -/
inductive Completes (s : State) : Instr → State → Prop
  | waitHold (hv : s.ports.cmdValid ≠ 1#1) : Completes s .wait s
  | waitAccept (hv : s.ports.cmdValid = 1#1) :
    Completes s .wait (accept s.ports.cmdOp s.ports.msgPresent s.ports.msgLen s)
  | chkRaise {e : HashError} (he : checkInput Config.used.lmax s.pres.value s.lreg.value = some e) :
    Completes s .chk (raise e s)
  | chkPass (hc : checkInput Config.used.lmax s.pres.value s.lreg.value = none) :
    Completes s .chk (s.withSeq (controlWord .pad 0))
  | pad {m : List Byte} (hm : memRead s .msg 0 s.lreg.value.toNat = .ok m) :
    Completes s .pad ((((s.withLengths (BitVec.ofNat 64 (m.length * 8)) (BitVec.ofNat 56 (blockCount m.length))).withPm
      (Memory.writeBytes [] 0 (paddedBytes m))).withPhase .padded).withSeq (controlWord .init 0))
  | init : Completes s .init (((s.withRegs Config.used.iv).withBlk 0).withSeq (controlWord .ldblk 0))
  | ldblk {bs : List Byte} (hbs : memRead s .pm (blockAddress s) 64 = .ok bs) :
    Completes s .ldblk ((s.withBlkbuf (s.blkbuf.writeBytes 0 bs)).withSeq (controlWord .ldw 0))
  | ldw {j : BitVec 7} {bs : List Byte} (hj : j.toNat ≤ 15) (hbs : memRead s .blkbuf (ldwAddress j) 4 = .ok bs) :
    Completes s (.ldw j)
      ((s.withXw (wSlot j.toNat (by omega)) (be32List bs)).withSeq (nextIndexed .ldw j 15 (controlWord .wgen 16)))
  | wgen {j : BitVec 7} (hj : 16 ≤ j.toNat ∧ j.toNat ≤ 67) (v : Word) :
    Completes s (.wgen j)
      ((s.withXw (wSlot j.toNat hj.2) v).withSeq (nextIndexed .wgen j 67 (controlWord .wpgen 0)))
  | wpgen {j : BitVec 7} (hj : j.toNat ≤ 63) (v : Word) :
    Completes s (.wpgen j)
      (((s.withXw (wpSlot j.toNat hj) v).withPhase (if j.toNat = 63 then .expanded else s.phase)).withSeq
        (nextIndexed .wpgen j 63 (controlWord .save 0)))
  | save : Completes s .save ((s.withSaved s.regWords).withSeq (controlWord .round 0))
  | round {i : BitVec 7} (hi : i.toNat ≤ 63) (v : Octet Word) :
    Completes s (.round i) ((s.withRegs v).withSeq (nextIndexed .round i 63 (controlWord .ffwd 0)))
  | ffwd (v : Octet Word) :
    Completes s .ffwd (((s.withRegs v).withPhase .compressed).withSeq (controlWord .nxtb 0))
  | nxtbLeave (hb : s.blk.value.toNat + 1 = s.nblk.value.toNat) :
    Completes s .nxtb ((s.withBlk (nextBlk s.blk.value)).withSeq (controlWord .digest 0))
  | nxtbLoop (hb : s.blk.value.toNat + 1 ≠ s.nblk.value.toNat) :
    Completes s .nxtb ((s.withBlk (nextBlk s.blk.value)).withSeq (controlWord .ldblk 0))
  | digestHex {bs : List Byte} (hbs : bs.length = 32) (hx : s.cmdop.value = 1#1) :
    Completes s .digest (((s.withDg (s.dg.writeBytes 0 bs)).withPhase .finalized).withSeq (controlWord .hex 0))
  | digestDone {bs : List Byte} (hbs : bs.length = 32) (hx : s.cmdop.value ≠ 1#1) :
    Completes s .digest (((s.withDg (s.dg.writeBytes 0 bs)).withPhase .finalized).withSeq (controlWord .done 0))
  | hex {bs : List Byte} (hbs : bs.length = 64) :
    Completes s .hex ((s.withHx (s.hx.writeBytes 0 bs)).withSeq (controlWord .done 0))
  | done : Completes s .done (((s.withRspStatus .ok).withRspValid 1).withSeq (controlWord .wait 0))
  | computeAccept {p : BitVec 1} {l : BitVec 64} (hr : cmdReady s = 1#1) : Completes s (.compute p l) (accept 0 p l s)
  | computeBusy {p : BitVec 1} {l : BitVec 64} (hr : cmdReady s ≠ 1#1) : Completes s (.compute p l) s
  | computeHexAccept {p : BitVec 1} {l : BitVec 64} (hr : cmdReady s = 1#1) :
    Completes s (.computeHex p l) (accept 1 p l s)
  | computeHexBusy {p : BitVec 1} {l : BitVec 64} (hr : cmdReady s ≠ 1#1) : Completes s (.computeHex p l) s

theorem completes_of_exec {i : Instr} {s t : State} (h : exec i s = .next t) : Completes s i t := by
  cases i with
  | wait =>
    simp only [exec, execWait] at h
    split at h <;> cases h
    · exact .waitAccept ‹_›
    · exact .waitHold ‹_›
  | chk =>
    simp only [exec, execChk] at h
    split at h <;> cases h
    · exact .chkRaise ‹_›
    · exact .chkPass ‹_›
  | pad =>
    simp only [exec, execPad] at h
    split at h <;> cases h
    exact .pad ‹_›
  | ldblk =>
    simp only [exec, execLdblk] at h
    split at h <;> cases h
    exact .ldblk ‹_›
  | ldw j =>
    simp only [exec, execLdw] at h
    split at h
    · split at h <;> cases h
      exact .ldw ‹_› ‹_›
    · cases h
  | wgen j =>
    simp only [exec, execWgen] at h
    split at h <;> cases h
    exact .wgen ‹_› _
  | wpgen j =>
    simp only [exec, execWpgen] at h
    split at h <;> cases h
    exact .wpgen ‹_› _
  | round j =>
    simp only [exec, execRound] at h
    split at h <;> cases h
    exact .round ‹_› _
  | nxtb =>
    cases h
    split
    · exact .nxtbLeave ‹_›
    · exact .nxtbLoop ‹_›
  | digest =>
    cases h
    split
    · exact .digestHex (digestBytes_length _) ‹_›
    · exact .digestDone (digestBytes_length _) ‹_›
  | init => cases h; exact .init
  | save => cases h; exact .save
  | ffwd => cases h; exact .ffwd _
  | hex => cases h; exact .hex (hexBytes_length _)
  | done => cases h; exact .done
  | compute p l =>
    cases h
    obtain ⟨hr, heq⟩ | ⟨hr, heq⟩ := command_cases 0 p l s <;> rw [heq]
    · exact .computeAccept hr
    · exact .computeBusy hr
  | computeHex p l =>
    cases h
    obtain ⟨hr, heq⟩ | ⟨hr, heq⟩ := command_cases 1 p l s <;> rw [heq]
    · exact .computeHexAccept hr
    · exact .computeHexBusy hr

/-! What a step runs (R28, R125). -/

theorem seq_zero_iff_decodeU_wait (w : BitVec 12) : w = 0x000#12 ↔ decodeU w = .ok .wait := by
  constructor
  · rintro rfl
    rfl
  · intro h
    have henc : encode .wait = .u w := (encodeInvertsDecode (.u w) .wait h).1
    exact (CodeWord.u.inj henc).symm

theorem decodeHC_portWord (s : State) :
    decodeHC (portWord s) = if s.ports.cmdOp = 1#1 then .computeHex s.ports.msgPresent s.ports.msgLen
      else .compute s.ports.msgPresent s.ports.msgLen :=
  decodeHC_commandWord _ _ _

theorem cmdReady_eq (s : State) : cmdReady s = if s.seq.toNat / 256 = 0 then 1#1 else 0#1 := by
  have h : s.seq.extractLsb' 8 4 = OpCode.wait.code ↔ s.seq.toNat / 256 = 0 := by
    rw [← BitVec.toNat_inj, toNat_opField]
    rfl
  simp only [cmdReady, h]
  rfl

theorem cmdReady_of_seq_zero {s : State} (h : s.seq = 0x000#12) : cmdReady s = 1#1 := by
  rw [cmdReady_eq, h]
  rfl

theorem command_of_seq_zero {s : State} (h : s.seq = 0x000#12) (op p : BitVec 1) (l : BitVec 64) :
    command op p l s = accept op p l s :=
  if_pos (cmdReady_of_seq_zero h)

theorem exec_wait_of_valid {s : State} (hv : s.ports.cmdValid = 1#1) :
    exec .wait s = .next (accept s.ports.cmdOp s.ports.msgPresent s.ports.msgLen s) := if_pos hv

theorem exec_wait_of_not_valid {s : State} (hv : s.ports.cmdValid ≠ 1#1) : exec .wait s = .next s := if_neg hv

/-- R125: at `WAIT` the command word on the ports does what `WAIT` does with it. -/
theorem exec_portWord_eq_exec_wait {s : State} (hs : s.seq = 0x000#12) (hv : s.ports.cmdValid = 1#1) :
    exec (decodeHC (portWord s)) s = exec .wait s := by
  rw [exec_wait_of_valid hv, decodeHC_portWord, ← command_of_seq_zero hs]
  split
  · next hop => rw [hop]; rfl
  · next hop => rw [(BitVec.eq_zero_or_eq_one _).resolve_right hop]; rfl

/-- Where no command is taken, the instruction fetched is the one `SEQ` names. -/
theorem fetch_of_decodeU {s : State} {i : Instr} (hi : decodeU s.seq = .ok i)
    (h : ¬(s.seq = 0x000#12 ∧ s.ports.cmdValid = 1#1)) : fetch s = .ok i := by
  rw [fetch_of_seq h, hi]

/-- Every step without reset from a legal `SEQ` does what the micro-operation named there does, the acceptance of a
command too. -/
theorem step_of_decodeU {s : State} {i : Instr} (hrst : s.ports.rst ≠ 1#1) (hi : decodeU s.seq = .ok i) :
    step s = exec i s := by
  by_cases h : s.seq = 0x000#12 ∧ s.ports.cmdValid = 1#1
  · obtain rfl : i = .wait := by
      rw [(seq_zero_iff_decodeU_wait _).1 h.1] at hi
      cases hi
      rfl
    simp only [step, if_neg hrst, fetch_of_command h, exec_portWord_eq_exec_wait h.1 h.2]
  · simp only [step, if_neg hrst, fetch_of_decodeU hi h]

theorem step_of_reset {s : State} (hrst : s.ports.rst = 1#1) : step s = .next (applyReset s) := if_pos hrst

/-- What a step from a legal `SEQ` can leave: the state after reset, or what its micro-operation completes with. -/
theorem completes_of_step {s t : State} {i : Instr} (hi : decodeU s.seq = .ok i) (h : step s = .next t) :
    t = applyReset s ∨ Completes s i t := by
  by_cases hrst : s.ports.rst = 1#1
  · rw [step_of_reset hrst] at h
    exact .inl (Host.Outcome.next.inj h).symm
  · rw [step_of_decodeU hrst hi] at h
    exact .inr (completes_of_exec h)

/-- The moves of both agents, each as what it leaves (R4, R135). -/
theorem move_cases {s t : State} {m : Move} (h : move m s = .next t) :
    step s = .next t ∨ (∃ p, t = s.withPorts p) ∨ ∃ a b, a < s.size .msg ∧ t = s.withMsg (s.msg.write a b) := by
  cases m with
  | core => exact .inl h
  | host hm =>
    cases hm with
    | driveRst v => exact .inr (.inl ⟨_, (Host.Outcome.next.inj h).symm⟩)
    | present op p l => exact .inr (.inl ⟨_, (Host.Outcome.next.inj h).symm⟩)
    | withdraw => exact .inr (.inl ⟨_, (Host.Outcome.next.inj h).symm⟩)
    | writeMsg a b =>
      simp only [move, hostMove] at h
      split at h
      · cases h
      · split at h
        · exact .inr (.inr ⟨a, b, ‹_›, (Host.Outcome.next.inj h).symm⟩)
        · cases h

end Sys2Proof.Machine
end

section
/-! PROOFS. The invariants every move of core or host keeps: memories inside their spaces (20_memory.md), `PHASE` in
step with `SEQ` (R133), everything written that is read ahead (R34). -/

namespace Sys2Proof.Machine

/-! Memories inside their spaces (R40). -/

/-- In canonical form and inside a space of `n` bytes. -/
def Memory.fits (n : Nat) (m : Memory) : Prop := m.wf ∧ m.below n

theorem Memory.fits_nil (n : Nat) : Memory.fits n [] := ⟨List.Pairwise.nil, Memory.below_nil n⟩

theorem Memory.fits_write {n a : Nat} {m : Memory} (h : m.fits n) (ha : a < n) (b : Byte) : (m.write a b).fits n :=
  ⟨Memory.write_wf a b h.1, Memory.below_write b h.2 ha⟩

theorem Memory.fits_writeBytes {n : Nat} {m : Memory} {bs : List Byte} (h : m.fits n) (hbs : bs.length ≤ n) :
    (m.writeBytes 0 bs).fits n :=
  ⟨Memory.writeBytes_wf 0 bs h.1, Memory.below_writeBytes h.2 (by omega)⟩

theorem memoryOk_iff (s : State) :
    MemoryOk s ↔ s.msg.fits (Config.used.lmax - 1) ∧ s.pm.fits (64 * s.nblk.value.toNat) ∧ s.blkbuf.fits 64 ∧
      s.dg.fits 32 ∧ s.hx.fits 64 := by
  constructor
  · rintro ⟨⟨hw1, hw2, hw3, hw4, hw5⟩, hb1, hb2, hb3, hb4, hb5⟩
    exact ⟨⟨hw1, hb1⟩, ⟨hw2, hb2⟩, ⟨hw3, hb3⟩, ⟨hw4, hb4⟩, hw5, hb5⟩
  · rintro ⟨⟨hw1, hb1⟩, ⟨hw2, hb2⟩, ⟨hw3, hb3⟩, ⟨hw4, hb4⟩, hw5, hb5⟩
    exact ⟨⟨hw1, hw2, hw3, hw4, hw5⟩, hb1, hb2, hb3, hb4, hb5⟩

/-! One rule for each update: those of no memory and not of `NBLK` keep the invariant, the others where the new
contents fit. -/

theorem MemoryOk.withSeq {s : State} (h : MemoryOk s) (w : BitVec 12) : MemoryOk (s.withSeq w) :=
  h.congr rfl rfl rfl rfl rfl rfl

theorem MemoryOk.withRegs {s : State} (h : MemoryOk s) (v : Octet Word) : MemoryOk (s.withRegs v) :=
  h.congr rfl rfl rfl rfl rfl rfl

theorem MemoryOk.withSaved {s : State} (h : MemoryOk s) (v : Octet Word) : MemoryOk (s.withSaved v) :=
  h.congr rfl rfl rfl rfl rfl rfl

theorem MemoryOk.withXw {s : State} (h : MemoryOk s) (k : Fin 132) (v : Word) : MemoryOk (s.withXw k v) :=
  h.congr rfl rfl rfl rfl rfl rfl

theorem MemoryOk.withBlk {s : State} (h : MemoryOk s) (v : BitVec 56) : MemoryOk (s.withBlk v) :=
  h.congr rfl rfl rfl rfl rfl rfl

theorem MemoryOk.withLatch {s : State} (h : MemoryOk s) (op p : BitVec 1) (l : BitVec 64) :
    MemoryOk (s.withLatch op p l) := h.congr rfl rfl rfl rfl rfl rfl

theorem MemoryOk.withPhase {s : State} (h : MemoryOk s) (p : Phase) : MemoryOk (s.withPhase p) :=
  h.congr rfl rfl rfl rfl rfl rfl

theorem MemoryOk.withRspValid {s : State} (h : MemoryOk s) (v : BitVec 1) : MemoryOk (s.withRspValid v) :=
  h.congr rfl rfl rfl rfl rfl rfl

theorem MemoryOk.withRspStatus {s : State} (h : MemoryOk s) (st : Status) : MemoryOk (s.withRspStatus st) :=
  h.congr rfl rfl rfl rfl rfl rfl

theorem MemoryOk.withPorts {s : State} (h : MemoryOk s) (p : Ports) : MemoryOk (s.withPorts p) :=
  h.congr rfl rfl rfl rfl rfl rfl

theorem MemoryOk.withMsg {s : State} (h : MemoryOk s) {m : Memory} (hm : m.fits (Config.used.lmax - 1)) :
    MemoryOk (s.withMsg m) := by
  rw [memoryOk_iff] at h ⊢
  exact ⟨hm, h.2⟩

theorem MemoryOk.withLengths_withPm {s : State} (h : MemoryOk s) {l : BitVec 64} {n : BitVec 56} {m : Memory}
    (hm : m.fits (64 * n.toNat)) : MemoryOk ((s.withLengths l n).withPm m) := by
  rw [memoryOk_iff] at h ⊢
  obtain ⟨hmsg, -, hrest⟩ := h
  exact ⟨hmsg, hm, hrest⟩

theorem MemoryOk.withBlkbuf {s : State} (h : MemoryOk s) {m : Memory} (hm : m.fits 64) :
    MemoryOk (s.withBlkbuf m) := by
  rw [memoryOk_iff] at h ⊢
  obtain ⟨hmsg, hpm, -, hrest⟩ := h
  exact ⟨hmsg, hpm, hm, hrest⟩

theorem MemoryOk.withDg {s : State} (h : MemoryOk s) {m : Memory} (hm : m.fits 32) : MemoryOk (s.withDg m) := by
  rw [memoryOk_iff] at h ⊢
  obtain ⟨hmsg, hpm, hbuf, -, hhx⟩ := h
  exact ⟨hmsg, hpm, hbuf, hm, hhx⟩

theorem MemoryOk.withHx {s : State} (h : MemoryOk s) {m : Memory} (hm : m.fits 64) : MemoryOk (s.withHx m) := by
  rw [memoryOk_iff] at h ⊢
  obtain ⟨hmsg, hpm, hbuf, hdg, -⟩ := h
  exact ⟨hmsg, hpm, hbuf, hdg, hm⟩

theorem MemoryOk.accept {s : State} (h : MemoryOk s) (op p : BitVec 1) (l : BitVec 64) : MemoryOk (accept op p l s) :=
  (((((h.withLatch op p l).withRspValid _).withPhase _).withDg (Memory.fits_nil _)).withHx (Memory.fits_nil _)).withSeq _

theorem MemoryOk.applyReset {s : State} (h : MemoryOk s) : MemoryOk (applyReset s) := by
  rw [memoryOk_iff] at h ⊢
  exact ⟨h.1, Memory.fits_nil _, Memory.fits_nil _, Memory.fits_nil _, Memory.fits_nil _⟩

/-- R40: a message `PAD` reads lies inside `MSG`, so it is shorter than `LMAX`. -/
theorem length_lt_of_memRead_msg {s : State} {n : Nat} {m : List Byte} (h : memRead s .msg 0 n = .ok m) :
    m.length < 2 ^ 61 := by
  obtain ⟨hsize, hlen, -⟩ := memRead_eq_ok.1 h
  rw [State.size, lmax_used] at hsize
  omega

/-- What a micro-operation writes into a memory fits its space. -/
theorem Completes.keeps_memoryOk {i : Instr} {s t : State} (hc : Completes s i t) (h : MemoryOk s) : MemoryOk t := by
  obtain ⟨-, -, hbuf, hdg, hhx⟩ := (memoryOk_iff s).1 h
  cases hc with
  | waitHold | computeBusy | computeHexBusy => exact h
  | waitAccept | computeAccept | computeHexAccept => exact h.accept _ _ _
  | chkRaise | done => exact ((h.withRspStatus _).withRspValid _).withSeq _
  | chkPass => exact h.withSeq _
  | @pad m hm =>
    refine ((h.withLengths_withPm (Memory.fits_writeBytes (Memory.fits_nil _) ?_)).withPhase _).withSeq _
    rw [toNat_blockCount (length_lt_of_memRead_msg hm), paddedBytes_length]
  | init => exact ((h.withRegs _).withBlk _).withSeq _
  | ldblk hbs =>
    obtain ⟨-, hlen, -⟩ := memRead_eq_ok.1 hbs
    exact (h.withBlkbuf (Memory.fits_writeBytes hbuf hlen.le)).withSeq _
  | ldw | wgen => exact (h.withXw _ _).withSeq _
  | wpgen => exact ((h.withXw _ _).withPhase _).withSeq _
  | save => exact (h.withSaved _).withSeq _
  | round => exact (h.withRegs _).withSeq _
  | ffwd => exact ((h.withRegs _).withPhase _).withSeq _
  | nxtbLeave | nxtbLoop => exact (h.withBlk _).withSeq _
  | digestHex hbs | digestDone hbs => exact ((h.withDg (Memory.fits_writeBytes hdg hbs.le)).withPhase _).withSeq _
  | hex hbs => exact (h.withHx (Memory.fits_writeBytes hhx hbs.le)).withSeq _

/-- Settles O43: what a step completes with, what a reset leaves, and a host write below the size of `MSG`. -/
theorem movesKeepMemoryOk : Obligations.MovesKeepMemoryOk := by
  intro s t m h hm
  obtain hstep | ⟨p, rfl⟩ | ⟨a, b, ha, rfl⟩ := move_cases hm
  · obtain ⟨-, heq⟩ | ⟨-, r, -, heq⟩ | ⟨-, i, -, heq⟩ := step_cases s <;> rw [heq] at hstep
    · cases hstep
      exact h.applyReset
    · cases hstep
    · exact (completes_of_exec hstep).keeps_memoryOk h
  · exact h.withPorts p
  · obtain ⟨hmsg, -⟩ := (memoryOk_iff s).1 h
    exact h.withMsg (Memory.fits_write hmsg ha b)

/-! `PHASE` in step with `SEQ` (R133). -/

/-- R132: below the last index the same operation at the next one, else the first word of the next group. -/
theorem nextIndexed_cases (op : OpCode) (idx : BitVec 7) {last : Nat} (after : BitVec 12) (hlast : last < 2 ^ 7) :
    (∃ idx', idx.toNat < last ∧ idx'.toNat = idx.toNat + 1 ∧ nextIndexed op idx last after = controlWord op idx') ∨
      (last ≤ idx.toNat ∧ nextIndexed op idx last after = after) := by
  rw [nextIndexed]
  split
  · next hlt => exact .inl ⟨idx + 1, hlt, BitVec.toNat_add_of_lt (Nat.lt_of_le_of_lt hlt hlast), rfl⟩
  · next hge => exact .inr ⟨Nat.le_of_not_lt hge, rfl⟩

theorem phaseFits_withSeq {s : State} {op : OpCode} {idx : BitVec 7} (hl : op.legalIdx idx = true)
    (hp : phaseAllowed (instrOf op idx) s.phase) : PhaseFits (s.withSeq (controlWord op idx)) :=
  ⟨instrOf op idx, decodeU_controlWord_of_legal hl, hp⟩

theorem phaseFits_reset (s : State) : PhaseFits (applyReset s) := ⟨.wait, (seq_zero_iff_decodeU_wait _).1 rfl, .inl rfl⟩

/-- R133: each way to complete leaves a word of its successors with a value of `PHASE` allowed there. -/
theorem Completes.phaseFits {i : Instr} {s t : State} (hc : Completes s i t) (hi : decodeU s.seq = .ok i)
    (hp : phaseAllowed i s.phase) : PhaseFits t := by
  cases hc with
  | waitHold => exact ⟨.wait, hi, hp⟩
  | waitAccept => exact phaseFits_withSeq rfl rfl
  | chkRaise => exact phaseFits_withSeq rfl (.inl hp)
  | done => exact phaseFits_withSeq rfl (.inr hp)
  | nxtbLoop => exact phaseFits_withSeq rfl (.inr hp)
  | init => exact phaseFits_withSeq rfl (.inl hp)
  | ffwd | pad | digestHex | digestDone => exact phaseFits_withSeq rfl rfl
  | chkPass | ldblk | save | nxtbLeave | hex => exact phaseFits_withSeq rfl hp
  | @ldw j _ hj hbs =>
    obtain ⟨idx, hlt, hidx, heq⟩ | ⟨-, heq⟩ := nextIndexed_cases .ldw j (controlWord .wgen 16) (last := 15) (by decide)
    · rw [heq]
      exact phaseFits_withSeq ((OpCode_legalIdx_iff _ _).2 (hidx ▸ hlt)) hp
    · rw [heq]
      exact phaseFits_withSeq rfl hp
  | @wgen j hj v =>
    obtain ⟨idx, hlt, hidx, heq⟩ | ⟨-, heq⟩ := nextIndexed_cases .wgen j (controlWord .wpgen 0) (last := 67) (by decide)
    · rw [heq]
      exact phaseFits_withSeq ((OpCode_legalIdx_iff _ _).2 (hidx ▸ ⟨Nat.le_succ_of_le hj.1, hlt⟩)) hp
    · rw [heq]
      exact phaseFits_withSeq rfl hp
  | @wpgen j hj v =>
    obtain ⟨idx, hlt, hidx, heq⟩ | ⟨hge, heq⟩ := nextIndexed_cases .wpgen j (controlWord .save 0) (last := 63) (by decide)
    · rw [heq, if_neg hlt.ne]
      exact phaseFits_withSeq ((OpCode_legalIdx_iff _ _).2 (hidx ▸ hlt)) hp
    · rw [heq, if_pos (Nat.le_antisymm hj hge)]
      exact phaseFits_withSeq rfl rfl
  | @round j hj v =>
    obtain ⟨idx, hlt, hidx, heq⟩ | ⟨-, heq⟩ := nextIndexed_cases .round j (controlWord .ffwd 0) (last := 63) (by decide)
    · rw [heq]
      exact phaseFits_withSeq ((OpCode_legalIdx_iff _ _).2 (hidx ▸ hlt)) hp
    · rw [heq]
      exact phaseFits_withSeq rfl hp
  | computeAccept | computeBusy | computeHexAccept | computeHexBusy => exact hp.elim

/-- Settles O44: no host move touches `SEQ` or `PHASE`, and a step from a legal `SEQ` completes its micro-operation. -/
theorem movesKeepPhaseInStep : Obligations.MovesKeepPhaseInStep := by
  intro s t m h hm
  obtain hstep | ⟨p, rfl⟩ | ⟨a, b, -, rfl⟩ := move_cases hm
  · obtain ⟨i, hi, hp⟩ := h
    obtain rfl | hc := completes_of_step hi hstep
    · exact phaseFits_reset s
    · exact hc.phaseFits hi hp
  · exact h
  · exact h

/-! Everything written that is read ahead (R34). -/

theorem Memory.full_writeBytes_zero (m : Memory) {bs : List Byte} {n : Nat} (hbs : bs.length = n) :
    (m.writeBytes 0 bs).full n := by
  intro a ha
  rw [Memory.read_writeBytes, if_pos ⟨Nat.zero_le a, by omega⟩, Nat.sub_zero,
    List.getElem?_eq_getElem (by omega : a < bs.length)]
  rfl

theorem xwHeld_zero (s : State) : xwHeld s 0 := fun _ hk => absurd hk (Nat.not_lt_zero _)

theorem xwHeld_mono {s : State} {n n' : Nat} (h : xwHeld s n') (hn : n ≤ n') : xwHeld s n :=
  fun k hk => h k (hk.trans_le hn)

/-- Writing the next element makes one more held. -/
theorem xwHeld_withXw {s : State} {n : Nat} (h : xwHeld s n) {d : Fin 132} (hd : d.val = n) (v : Word) :
    xwHeld (s.withXw d v) (n + 1) := by
  intro k hk
  by_cases hkd : k = d
  · subst hkd
    rw [State.withXw_getElem_same, Slot.hold_held]
  · rw [State.withXw_getElem_other s v hkd]
    exact h k (by have := Fin.val_ne_of_ne hkd; omega)

theorem readyFor_withSeq (s : State) (w : BitVec 12) (i : Instr) : readyFor (s.withSeq w) i ↔ readyFor s i := by
  cases i <;> exact Iff.rfl

theorem readyFor_withPorts (s : State) (p : Ports) (i : Instr) : readyFor (s.withPorts p) i ↔ readyFor s i := by
  cases i <;> exact Iff.rfl

theorem readyFor_withMsg (s : State) (m : Memory) (i : Instr) : readyFor (s.withMsg m) i ↔ readyFor s i := by
  cases i <;> exact Iff.rfl

theorem ready_withSeq {s : State} {op : OpCode} {idx : BitVec 7} (hl : op.legalIdx idx = true)
    (hr : readyFor s (instrOf op idx)) : Ready (s.withSeq (controlWord op idx)) :=
  ⟨instrOf op idx, decodeU_controlWord_of_legal hl, (readyFor_withSeq s _ _).2 hr⟩

/-- A legal indexed successor is ready when the next index is, or else the first word of the next group. -/
theorem ready_withSeq_nextIndexed {s : State} {op op' : OpCode} {idx idx' : BitVec 7} {last : Nat} (hlast : last < 2 ^ 7)
    (hnext : ∀ k : BitVec 7, idx.toNat < last → k.toNat = idx.toNat + 1 →
      op.legalIdx k = true ∧ readyFor s (instrOf op k))
    (hafter : last ≤ idx.toNat → op'.legalIdx idx' = true ∧ readyFor s (instrOf op' idx')) :
    Ready (s.withSeq (nextIndexed op idx last (controlWord op' idx'))) := by
  obtain ⟨k, hlt, hk, heq⟩ | ⟨hge, heq⟩ := nextIndexed_cases op idx (controlWord op' idx') hlast
  · obtain ⟨hl, hr⟩ := hnext k hlt hk
    rw [heq]
    exact ready_withSeq hl hr
  · obtain ⟨hl, hr⟩ := hafter hge
    rw [heq]
    exact ready_withSeq hl hr

theorem resultHeld_of_not_valid {s : State} (h : s.rspValid = 0#1) : resultHeld s :=
  fun hv => absurd (h.symm.trans hv) (by decide)

theorem ready_reset (s : State) : Ready (applyReset s) := ⟨.wait, (seq_zero_iff_decodeU_wait _).1 rfl, resultHeld_of_not_valid rfl⟩

theorem checkInput_eq_none_iff {lmax : Nat} {p : BitVec 1} {l : BitVec 64} :
    checkInput lmax p l = none ↔ p = 1#1 ∧ l.toNat < lmax := by
  rw [checkInput]
  obtain rfl | rfl := BitVec.eq_zero_or_eq_one p <;> simp

theorem HashError.status_ne_ok (e : HashError) : e.status ≠ .ok := by
  cases e <;> decide

/-- R26, R91: inside the loop `BLK + 1` is at most `NBLK`, which fits the register. -/
theorem toNat_nextBlk {blk : BitVec 56} (h : blk.toNat + 1 < 2 ^ 56) : (nextBlk blk).toNat = blk.toNat + 1 := by
  rw [nextBlk, if_pos h]
  exact BitVec.toNat_add_of_lt h

/-- R80, R82: after `PAD` the blocks `NBLK` counts are all in `PM`, and there is at least one. -/
theorem paddedHeld_pad (s : State) {m : List Byte} (hm : m.length < 2 ^ 61) :
    paddedHeld ((s.withLengths (BitVec.ofNat 64 (m.length * 8)) (BitVec.ofNat 56 (blockCount m.length))).withPm
      (Memory.writeBytes [] 0 (paddedBytes m))) := by
  have hblocks := toNat_blockCount hm
  refine ⟨rfl, rfl, ?_, Memory.full_writeBytes_zero _ ?_⟩
  · rw [State.withPm_nblk, State.withLengths_nblk, Slot.hold_value, hblocks]
    exact Nat.succ_pos _
  · rw [paddedBytes_length, State.size, State.withPm_nblk, State.withLengths_nblk, Slot.hold_value, hblocks]

/-- R34, R131: each micro-operation writes what its successors read and it did not find written. -/
theorem Completes.ready {i : Instr} {s t : State} (hc : Completes s i t) (hi : decodeU s.seq = .ok i)
    (hr : readyFor s i) : Ready t := by
  cases hc with
  | waitHold => exact ⟨.wait, hi, hr⟩
  | waitAccept => exact ready_withSeq rfl ⟨rfl, rfl, rfl⟩
  | @chkRaise e _ => exact ready_withSeq rfl fun _ hok => absurd hok e.status_ne_ok
  | chkPass hpass => exact ready_withSeq rfl ⟨hr, checkInput_eq_none_iff.1 hpass⟩
  | pad hm =>
    obtain ⟨hlatch, -⟩ := hr
    exact ready_withSeq rfl ⟨hlatch, paddedHeld_pad s (length_lt_of_memRead_msg hm)⟩
  | init =>
    obtain ⟨hlatch, hlen, hnblk, hpos, hpm⟩ := hr
    exact ready_withSeq rfl ⟨hlatch, ⟨hlen, hnblk, hpos, hpm⟩, octetHeld_octetMap_hold _, rfl, hpos⟩
  | ldblk hbs =>
    obtain ⟨-, hlen, -⟩ := memRead_eq_ok.1 hbs
    exact ready_withSeq rfl ⟨hr, Memory.full_writeBytes_zero _ hlen, xwHeld_zero _⟩
  | @ldw j bs hj _ =>
    obtain ⟨hblock, hbuf, hxw⟩ := hr
    have hxw' := xwHeld_withXw hxw (d := wSlot j.toNat (by omega)) rfl (be32List bs)
    refine ready_withSeq_nextIndexed (by decide) (fun k hlt hk => ?_) (fun hge => ⟨rfl, hblock, ?_⟩)
    · exact ⟨(OpCode_legalIdx_iff _ _).2 (hk ▸ hlt), hblock, hbuf, hk ▸ hxw'⟩
    · exact xwHeld_mono hxw' (Nat.succ_le_succ hge)
  | @wgen j hj v =>
    obtain ⟨hblock, hxw⟩ := hr
    have hxw' := xwHeld_withXw hxw (d := wSlot j.toNat hj.2) rfl v
    refine ready_withSeq_nextIndexed (by decide) (fun k hlt hk => ?_) (fun hge => ⟨rfl, hblock, ?_⟩)
    · exact ⟨(OpCode_legalIdx_iff _ _).2 (hk ▸ ⟨Nat.le_succ_of_le hj.1, hlt⟩), hblock, hk ▸ hxw'⟩
    · exact xwHeld_mono hxw' (Nat.succ_le_succ hge)
  | @wpgen j hj v =>
    obtain ⟨hblock, hxw⟩ := hr
    have hxw' := xwHeld_withXw hxw (d := wpSlot j.toNat hj) rfl v
    refine ready_withSeq_nextIndexed (by decide) (fun k hlt hk => ?_) (fun hge => ⟨rfl, hblock, ?_⟩)
    · refine ⟨(OpCode_legalIdx_iff _ _).2 (hk ▸ hlt), hblock, ?_⟩
      rw [hk]
      exact hxw'
    · exact xwHeld_mono hxw' (by omega)
  | save => exact ready_withSeq rfl ⟨hr.1, hr.2, octetHeld_octetMap_hold _⟩
  | round hi' v =>
    obtain ⟨⟨hlatch, hpad, -, hblk⟩, hxw, hsaved⟩ := hr
    have hblock : inBlock (s.withRegs v) := ⟨hlatch, hpad, octetHeld_octetMap_hold _, hblk⟩
    refine ready_withSeq_nextIndexed (by decide) (fun _ hlt hk => ?_) (fun _ => ⟨rfl, hblock, hsaved⟩)
    exact ⟨(OpCode_legalIdx_iff _ _).2 (hk ▸ hlt), hblock, hxw, hsaved⟩
  | ffwd =>
    obtain ⟨⟨hlatch, hpad, -, hblk⟩, -⟩ := hr
    exact ready_withSeq rfl ⟨hlatch, hpad, octetHeld_octetMap_hold _, hblk⟩
  | nxtbLeave =>
    obtain ⟨hlatch, -, hregs, -⟩ := hr
    exact ready_withSeq rfl ⟨hlatch, hregs⟩
  | nxtbLoop hb =>
    obtain ⟨hlatch, hpad, hregs, -, hlt⟩ := hr
    refine ready_withSeq rfl ⟨hlatch, hpad, hregs, rfl, ?_⟩
    have hnblk := s.nblk.value.isLt
    rw [State.withBlk_blk, Slot.hold_value, toNat_nextBlk (by omega), State.withBlk_nblk]
    omega
  | digestHex hbs hx =>
    obtain ⟨hlatch, hregs⟩ := hr
    exact ready_withSeq rfl ⟨hlatch, hregs, hx, Memory.full_writeBytes_zero _ hbs⟩
  | digestDone hbs hx =>
    obtain ⟨hlatch, hregs⟩ := hr
    exact ready_withSeq rfl ⟨hlatch, Memory.full_writeBytes_zero _ hbs, fun h => absurd h hx⟩
  | hex hbs =>
    obtain ⟨hlatch, -, -, hdg⟩ := hr
    exact ready_withSeq rfl ⟨hlatch, hdg, fun _ => Memory.full_writeBytes_zero _ hbs⟩
  | done =>
    obtain ⟨⟨hcmdop, -, -⟩, hdg, hhx⟩ := hr
    exact ready_withSeq rfl fun _ _ => ⟨hcmdop, hdg, hhx⟩
  | computeAccept | computeBusy | computeHexAccept | computeHexBusy => exact hr.elim

/-- Settles O45: the host writes none of what `Ready` speaks of, and a step from a ready state completes its
micro-operation. -/
theorem movesKeepReady : Obligations.MovesKeepReady := by
  intro s t m ⟨i, hi, hr⟩ hm
  obtain hstep | ⟨p, rfl⟩ | ⟨a, b, -, rfl⟩ := move_cases hm
  · obtain rfl | hc := completes_of_step hi hstep
    · exact ready_reset s
    · exact hc.ready hi hr
  · exact ⟨i, hi, (readyFor_withPorts s p i).2 hr⟩
  · exact ⟨i, hi, (readyFor_withMsg s _ i).2 hr⟩

/-- Settles O48: no byte is listed after reset, and `WAIT` needs none. -/
theorem resetMeetsTheInvariants : Obligations.ResetMeetsTheInvariants := by
  refine ⟨(memoryOk_iff _).2 ?_, phaseFits_reset State.reset, ready_reset State.reset⟩
  exact ⟨Memory.fits_nil _, Memory.fits_nil _, Memory.fits_nil _, Memory.fits_nil _, Memory.fits_nil _⟩

end Sys2Proof.Machine
end

section
/-! PROOFS. A ready core steps, and from a ready state a step reads held elements only (R34, 10_state.md section 7). -/

namespace Sys2Proof.Machine

theorem memRead_of_full {s : State} {sp : Space} {n : Nat} (hfull : (s.space sp).full n) {a k : Nat} (hak : a + k ≤ n)
    (hsize : a + k ≤ s.size sp) : ∃ bs, memRead s sp a k = .ok bs :=
  exists_memRead_eq_ok hsize fun _ ht => Option.isSome_iff_exists.1 (hfull _ (by omega))

/-- What a decoded indexed micro-operation has in its index field (R63). -/
theorem wf_of_decodeU {w : BitVec 12} {i : Instr} (h : decodeU w = .ok i) : i.wf = true :=
  (encodeInvertsDecode (.u w) i h).2

/-- Each micro-operation answers a next state where it is well formed, what it reads is there, and `PAD` has its
message. -/
theorem exists_exec_of_readyFor {s : State} {i : Instr} (hwf : i.wf = true) (hr : readyFor s i)
    (hmsg : i = .pad → messageHeld s) : ∃ t, exec i s = .next t := by
  cases i with
  | wait =>
    by_cases hv : s.ports.cmdValid = 1#1
    · exact ⟨_, exec_wait_of_valid hv⟩
    · exact ⟨_, exec_wait_of_not_valid hv⟩
  | chk =>
    cases hcheck : checkInput Config.used.lmax s.pres.value s.lreg.value with
    | some e => exact ⟨_, exec_chk_of_error hcheck⟩
    | none =>
      obtain ⟨hp, hl⟩ := checkInput_eq_none_iff.1 hcheck
      exact ⟨_, exec_chk_of_valid hp hl⟩
  | pad =>
    obtain ⟨-, -, hl⟩ := hr
    obtain ⟨m, hm⟩ := memRead_of_full (sp := .msg) (hmsg rfl) (a := 0) (k := s.lreg.value.toNat) (by omega)
      (by rw [State.size]; omega)
    exact ⟨_, exec_pad_of_memRead hm⟩
  | ldblk =>
    obtain ⟨-, ⟨-, -, -, hpm⟩, -, -, hlt⟩ := hr
    have hsize := blockAddress_add_le_size_pm hlt
    obtain ⟨bs, hbs⟩ := memRead_of_full (sp := .pm) hpm hsize hsize
    exact ⟨_, exec_ldblk_of_memRead hbs⟩
  | ldw j =>
    obtain ⟨-, hbuf, -⟩ := hr
    have hj : j.toNat ≤ 15 := of_decide_eq_true hwf
    have haddr : ldwAddress j + 4 ≤ 64 := by rw [ldwAddress]; omega
    obtain ⟨bs, hbs⟩ := memRead_of_full (sp := .blkbuf) hbuf haddr haddr
    exact ⟨_, exec_ldw_of_memRead (d := ⟨j.toNat, by omega⟩) hj rfl hbs⟩
  | wgen j =>
    have hj : 16 ≤ j.toNat ∧ j.toNat ≤ 67 := of_decide_eq_true hwf
    exact ⟨_, by rw [exec, execWgen, dif_pos hj]⟩
  | wpgen j =>
    have hj : j.toNat ≤ 63 := of_decide_eq_true hwf
    exact ⟨_, by rw [exec, execWpgen, dif_pos hj]⟩
  | round j =>
    have hj : j.toNat ≤ 63 := of_decide_eq_true hwf
    exact ⟨_, by rw [exec, execRound, dif_pos hj]⟩
  | init | save | ffwd | nxtb | digest | hex | done | compute | computeHex => exact ⟨_, rfl⟩

/-- Settles O46: the reset, or the micro-operation `SEQ` names, whose index is legal. -/
theorem readyCoreAlwaysSteps : Obligations.ReadyCoreAlwaysSteps := by
  intro s ⟨i, hi, hr⟩ hmsg
  by_cases hrst : s.ports.rst = 1#1
  · exact ⟨_, step_of_reset hrst⟩
  · rw [step_of_decodeU hrst hi]
    refine exists_exec_of_readyFor (wf_of_decodeU hi) hr fun hpad => hmsg ?_
    obtain ⟨hword, -⟩ := encodeInvertsDecode (.u s.seq) i hi
    rw [hpad] at hword
    exact (CodeWord.u.inj hword).symm

/-! The registers a ready micro-operation reads hold values, the `reads` column of its rule (R34). -/

theorem readsHeld_of_readyFor {s : State} {i : Instr} (hwf : i.wf = true) (hr : readyFor s i) : readsHeld s i := by
  cases i with
  | wait | init | done | ldw => exact trivial
  | chk => exact hr.2
  | pad => exact hr.1.2.2
  | ldblk =>
    obtain ⟨-, -, -, hblk, -⟩ := hr
    exact hblk
  | wgen j =>
    obtain ⟨-, hxw⟩ := hr
    intro k hk
    exact hxw k (by omega)
  | wpgen j =>
    have hj : j.toNat ≤ 63 := of_decide_eq_true hwf
    obtain ⟨-, hxw⟩ := hr
    intro k hk
    exact hxw k (by omega)
  | save =>
    obtain ⟨⟨-, -, hregs, -⟩, -⟩ := hr
    exact hregs
  | round j =>
    obtain ⟨⟨-, -, hregs, -⟩, hxw, -⟩ := hr
    exact ⟨hregs, fun k _ => hxw k k.isLt⟩
  | ffwd =>
    obtain ⟨⟨-, -, hregs, -⟩, hsaved⟩ := hr
    exact ⟨hregs, hsaved⟩
  | nxtb =>
    obtain ⟨-, ⟨-, hnblk, -⟩, -, hblk, -⟩ := hr
    exact ⟨hblk, hnblk⟩
  | digest =>
    obtain ⟨⟨hcmdop, -⟩, hregs⟩ := hr
    exact ⟨hregs, hcmdop⟩
  | hex =>
    obtain ⟨-, hregs, -⟩ := hr
    exact hregs
  | compute | computeHex => exact hr.elim

/-! States that agree where something is written. -/

theorem AgreeWhereWritten.command {s s' : State} (h : AgreeWhereWritten s s') (op p : BitVec 1) (l : BitVec 64) :
    AgreeWhereWritten (command op p l s) (command op p l s') := by
  have hready : cmdReady s' = cmdReady s := by rw [cmdReady, cmdReady, h.seq]
  rw [Machine.command, Machine.command, hready]
  split
  · exact h.accept op p l
  · exact h

/-- The outcome depends on elements the rule lists as read, and on `PM`'s size where a block is read from it. -/
theorem outcomesAgree_exec {s s' : State} (h : AgreeWhereWritten s s') {i : Instr} (hr : readsHeld s i)
    (hnblk : i = .ldblk → s.nblk.held = true) : OutcomesAgree (exec i s) (exec i s') := by
  cases i with
  | wait =>
    simp only [exec, execWait, ← h.ports]
    split
    · exact h.accept _ _ _
    · exact h
  | chk =>
    obtain ⟨hpres, hlreg⟩ := hr
    simp only [exec, execChk, ← Slot.agree_eq h.pres hpres, ← Slot.agree_eq h.lreg hlreg]
    split
    · exact h.raise _
    · exact h.withSeq _
  | pad =>
    simp only [exec, execPad, ← Slot.agree_eq h.lreg hr, memRead_agree h .msg (fun hsp => by cases hsp)]
    split
    · rfl
    · exact (((h.withLengths _ _).withPm _).withPhase _).withSeq _
  | init => exact ((h.withRegs _).withBlk _).withSeq _
  | ldblk =>
    simp only [exec, execLdblk, blockAddress, ← Slot.agree_eq h.blk hr, memRead_agree h .pm (fun _ => hnblk rfl),
      ← h.blkbuf]
    split
    · rfl
    · exact (h.withBlkbuf _).withSeq _
  | ldw j =>
    simp only [exec, execLdw, memRead_agree h .blkbuf (fun hsp => by cases hsp)]
    split
    · split
      · rfl
      · exact (h.withXw _ _).withSeq _
    · rfl
  | wgen j =>
    by_cases hj : 16 ≤ j.toNat ∧ j.toNat ≤ 67
    · simp only [exec, execWgen, dif_pos hj]
      rw [h.xwWord _ (hr (wSlot (j.toNat - 16) (by omega)) (.inl (Nat.sub_add_cancel (by omega)))),
        h.xwWord _ (hr (wSlot (j.toNat - 9) (by omega)) (.inr (.inl (Nat.sub_add_cancel (by omega))))),
        h.xwWord _ (hr (wSlot (j.toNat - 3) (by omega)) (.inr (.inr (.inl (Nat.sub_add_cancel (by omega)))))),
        h.xwWord _ (hr (wSlot (j.toNat - 13) (by omega)) (.inr (.inr (.inr (.inl (Nat.sub_add_cancel (by omega))))))),
        h.xwWord _ (hr (wSlot (j.toNat - 6) (by omega)) (.inr (.inr (.inr (.inr (Nat.sub_add_cancel (by omega)))))))]
      exact (h.withXw _ _).withSeq _
    · simp only [exec, execWgen, dif_neg hj]
      rfl
  | wpgen j =>
    by_cases hj : j.toNat ≤ 63
    · simp only [exec, execWpgen, dif_pos hj, ← h.phase]
      rw [h.xwWord _ (hr (wSlot j.toNat (by omega)) (.inl rfl)),
        h.xwWord _ (hr (wSlot (j.toNat + 4) (by omega)) (.inr rfl))]
      exact ((h.withXw _ _).withPhase _).withSeq _
    · simp only [exec, execWpgen, dif_neg hj]
      rfl
  | save =>
    simp only [exec, execSave, h.regWords hr]
    exact (h.withSaved _).withSeq _
  | round j =>
    obtain ⟨hregs, hxw⟩ := hr
    by_cases hj : j.toNat ≤ 63
    · simp only [exec, execRound, dif_pos hj]
      rw [h.regWords hregs, h.xwWord _ (hxw (wSlot j.toNat (by omega)) (.inl rfl)),
        h.xwWord _ (hxw (wpSlot j.toNat hj) (.inr rfl))]
      exact (h.withRegs _).withSeq _
    · simp only [exec, execRound, dif_neg hj]
      rfl
  | ffwd =>
    obtain ⟨hregs, hsaved⟩ := hr
    simp only [exec, execFfwd, h.regWords hregs, h.savedWords hsaved]
    exact ((h.withRegs _).withPhase _).withSeq _
  | nxtb =>
    obtain ⟨hblk, hnblk'⟩ := hr
    simp only [exec, execNxtb, ← Slot.agree_eq h.blk hblk, ← Slot.agree_eq h.nblk hnblk']
    exact (h.withBlk _).withSeq _
  | digest =>
    obtain ⟨hregs, hcmdop⟩ := hr
    simp only [exec, execDigest, h.regWords hregs, ← Slot.agree_eq h.cmdop hcmdop, ← h.dg]
    exact ((h.withDg _).withPhase _).withSeq _
  | hex =>
    simp only [exec, execHex, h.regWords hr, ← h.hx]
    exact (h.withHx _).withSeq _
  | done => exact ((h.withRspStatus _).withRspValid _).withSeq _
  | compute p l => exact h.command 0 p l
  | computeHex p l => exact h.command 1 p l

/-- Settles O47: the instruction is the one `SEQ` names, whose reads are held because the state is ready for it, or a
command, which reads no register. -/
theorem readyStepsReadWrittenRegisters : Obligations.ReadyStepsReadWrittenRegisters := by
  intro s s' i ⟨i', hi', hr⟩ h hf
  refine ⟨(fetch_agree h).trans hf, ?_⟩
  by_cases hc : s.seq = 0x000#12 ∧ s.ports.cmdValid = 1#1
  · rw [fetch_of_command hc, decodeHC_portWord] at hf
    obtain rfl := Except.ok.inj hf
    split
    · exact ⟨outcomesAgree_exec h trivial (fun hi => by cases hi), trivial⟩
    · exact ⟨outcomesAgree_exec h trivial (fun hi => by cases hi), trivial⟩
  · rw [fetch_of_decodeU hi' hc] at hf
    obtain rfl := Except.ok.inj hf
    have hreads := readsHeld_of_readyFor (wf_of_decodeU hi') hr
    refine ⟨outcomesAgree_exec h hreads fun hi => ?_, hreads⟩
    subst hi
    obtain ⟨-, ⟨-, hnblk, -⟩, -⟩ := hr
    exact hnblk

end Sys2Proof.Machine
end

section
/-! PROOFS. The successor function (R132), the writers of each piece of state (10_state.md, summary), and what a step
does not depend on (R125, R41). -/

open Sys2Proof.Claims

namespace Sys2Proof.Machine

/-! The 207 words of `SEQ` (R132). -/

/-- The list of R132 is the legal words of R63, operation by operation. -/
theorem reachableWord_iff_not_reservedByRule {w : Nat} (hw : w < 4096) : reachableWord w ↔ ¬reservedByRule w := by
  simp only [reachableWord, reservedByRule]
  obtain ⟨op, z, idx, hop, hz, hidx, rfl⟩ : ∃ op z idx, op < 16 ∧ z < 2 ∧ idx < 128 ∧ w = 256 * op + 128 * z + idx :=
    ⟨w / 256, w / 128 % 2, w % 128, by omega, by omega, by omega, by omega⟩
  rw [show (256 * op + 128 * z + idx) / 256 = op by omega, show (256 * op + 128 * z + idx) / 128 % 2 = z by omega,
    show (256 * op + 128 * z + idx) % 128 = idx by omega]
  interval_cases op <;> simp <;> omega

theorem reachableWord_iff_exists_decodeU (w : BitVec 12) : reachableWord w.toNat ↔ ∃ i, decodeU w = .ok i := by
  rw [reachableWord_iff_not_reservedByRule w.isLt, ← decodeU_error_iff]
  cases decodeU w <;> simp

theorem ne_command_of_decodeU {w : BitVec 12} {i : Instr} (h : decodeU w = .ok i) (p : BitVec 1) (l : BitVec 64) :
    i ≠ .compute p l ∧ i ≠ .computeHex p l := by
  obtain ⟨op, idx, -, rfl, -⟩ := exists_of_decodeU h
  cases op <;> exact ⟨nofun, nofun⟩

theorem Completes.seq_eq_successorTable {i : Instr} {s t : State} (hc : Completes s i t) (hi : decodeU s.seq = .ok i) :
    t.seq.toNat = successorTable s i := by
  cases hc with
  | waitHold hv =>
    rw [(seq_zero_iff_decodeU_wait _).2 hi, successorTable, if_pos ((BitVec.eq_zero_or_eq_one _).resolve_right hv)]
    rfl
  | waitAccept hv =>
    rw [successorTable, if_neg (by rw [hv]; decide)]
    rfl
  | @chkRaise e he =>
    have hbad : s.pres.value = 0#1 ∨ Config.used.lmax ≤ s.lreg.value.toNat := by
      by_contra hgood
      rw [not_or, Nat.not_le] at hgood
      have hone := (BitVec.eq_zero_or_eq_one _).resolve_left hgood.1
      rw [checkInput_eq_none_iff.2 ⟨hone, hgood.2⟩] at he
      cases he
    rw [successorTable, if_pos hbad]
    rfl
  | chkPass hpass =>
    obtain ⟨hp, hl⟩ := checkInput_eq_none_iff.1 hpass
    rw [successorTable, if_neg (not_or.2 ⟨by rw [hp]; decide, Nat.not_le.2 hl⟩)]
    rfl
  | pad | init | ldblk | save | ffwd | hex | done => rfl
  | ldw | wgen | wpgen | round => exact toNat_nextIndexed _ _ _ (by decide)
  | nxtbLeave hb =>
    rw [successorTable, if_pos hb]
    rfl
  | nxtbLoop hb =>
    rw [successorTable, if_neg hb]
    rfl
  | digestHex _ hx =>
    rw [successorTable, if_pos hx]
    rfl
  | digestDone _ hx =>
    rw [successorTable, if_neg hx]
    rfl
  | computeAccept | computeBusy => exact absurd rfl (ne_command_of_decodeU hi _ _).1
  | computeHexAccept | computeHexBusy => exact absurd rfl (ne_command_of_decodeU hi _ _).2

/-- The words of R132 in rising order: for each operation its code with every index legal there. -/
def legalWords : List Nat :=
  [OpCode.wait, .chk, .pad, .init, .ldblk, .ldw, .wgen, .wpgen, .save, .round, .ffwd, .nxtb, .digest, .hex, .done].flatMap
    fun op => List.range' (op.code.toNat * 2 ^ 8 + op.idxRange.1) (op.idxRange.2 - op.idxRange.1 + 1)

theorem mem_legalWords_iff (w : Nat) : w ∈ legalWords ↔ reachableWord w := by
  simp only [legalWords, List.flatMap_cons, List.flatMap_nil, List.mem_append, List.mem_range'_1, OpCode.code,
    OpCode.idxRange, reachableWord, List.not_mem_nil, or_false, BitVec.ofNat_eq_ofNat, BitVec.reduceToNat,
    Nat.reducePow, Nat.reduceMul, Nat.reduceAdd, Nat.reduceSub]
  constructor <;> intro h <;> omega

theorem legalWords_nodup : legalWords.Nodup := by
  have hrising : legalWords.IsChain (· < ·) := by decide +kernel
  exact hrising.pairwise.imp fun h => Nat.ne_of_lt h

theorem decodeTableWord_isSome_iff {w : Nat} (hw : w < 4096) :
    (decodeTableWord 12 w).isSome = true ↔ reachableWord w := by
  have hnat : (BitVec.ofNat 12 w).toNat = w := by rw [BitVec.toNat_ofNat]; exact Nat.mod_eq_of_lt hw
  have htable : tableWord 12 w = some (.u (BitVec.ofNat 12 w)) := by rw [tableWord, if_pos (.inl rfl), if_pos (show w < 2 ^ 12 from hw)]
  conv => rhs; rw [← hnat, reachableWord_iff_exists_decodeU]
  simp only [decodeTableWord, htable, decode]
  cases decodeU (BitVec.ofNat 12 w) <;> simp

theorem length_filter_decodeTableWord :
    ((List.range 4096).filter fun w => (decodeTableWord 12 w).isSome).length = 207 := by
  have hperm : ((List.range 4096).filter fun w => (decodeTableWord 12 w).isSome).Perm legalWords := by
    rw [List.perm_ext_iff_of_nodup (List.nodup_range.filter _) legalWords_nodup]
    intro w
    rw [List.mem_filter, List.mem_range, mem_legalWords_iff]
    constructor
    · rintro ⟨hw, hsome⟩
      exact (decodeTableWord_isSome_iff hw).1 hsome
    · intro hreach
      have hw : w < 4096 := by rw [reachableWord] at hreach; omega
      exact ⟨hw, (decodeTableWord_isSome_iff hw).2 hreach⟩
  rw [hperm.length_eq]
  rfl

/-- Settles O38: the table is what each way to complete leaves, and a legal word stays legal (R65). -/
theorem successorFunctionIsTheTable : Obligations.SuccessorFunctionIsTheTable := by
  refine ⟨fun s t i hi h => ⟨(completes_of_exec h).seq_eq_successorTable hi, ?_⟩, reachableWord_iff_exists_decodeU,
    length_filter_decodeTableWord⟩
  exact (reachableWord_iff_exists_decodeU _).2 (exec_keeps_seqLegal ⟨i, hi⟩ h)

/-! The writers of each piece of state (10_state.md, summary). -/

/-- Settles O39: the fields that differ, for each way to complete. -/
theorem onlyTheListedWritersWrite : Obligations.OnlyTheListedWritersWrite := by
  intro i s t h
  cases completes_of_exec h with
  | waitHold | computeBusy | computeHexBusy => simp
  | waitAccept | computeAccept | computeHexAccept => simp [accept]
  | chkRaise => simp [raise]
  | chkPass | pad | init | ldblk | ldw | wgen | save | round | ffwd | nxtbLeave | nxtbLoop | digestHex | digestDone | hex
  | done => simp
  | @wpgen j hj v =>
    have hlast : j.toNat = 63 → j = 63 := fun h63 => BitVec.eq_of_toNat_eq h63
    simpa using fun hne _ => hlast hne

/-- Settles O40: an acceptance clears `rsp_valid` and `DONE` answers `OK`, so `CHK` raised the status, `NullInput` by
the first of its tests. -/
theorem errorsComeFromChkAlone : Obligations.ErrorsComeFromChkAlone := by
  intro i s t h hbad hnew hvalid
  cases completes_of_exec h with
  | @chkRaise e he =>
    refine ⟨rfl, ?_⟩
    change e.status = .nullInput ↔ _
    rw [checkInput] at he
    split at he
    · next hp =>
      cases he
      exact iff_of_true rfl hp
    · next hp =>
      split at he <;> cases he
      exact iff_of_false (by decide) hp
  | waitAccept | computeAccept | computeHexAccept => exact absurd hvalid (by simp [accept])
  | done => exact absurd rfl hbad
  | waitHold | chkPass | pad | init | ldblk | ldw | wgen | wpgen | save | round | ffwd | nxtbLeave | nxtbLoop | digestHex
  | digestDone | hex | computeBusy | computeHexBusy => simp at hnew

/-! What a step does not depend on: `MSG` outside `PAD` (R41), the command ports while busy (R125). -/

/-- An outcome with its next state changed. -/
def mapNext (f : State → State) : Host.Outcome State Fault Refusal → Host.Outcome State Fault Refusal
  | .next t => .next (f t)
  | .fault r => .fault r
  | .refused r => .refused r

@[simp] theorem mapNext_next (f : State → State) (t : State) : mapNext f (.next t) = .next (f t) := rfl
@[simp] theorem mapNext_fault (f : State → State) (r : Fault) : mapNext f (.fault r) = .fault r := rfl
@[simp] theorem mapNext_refused (f : State → State) (r : Refusal) : mapNext f (.refused r) = .refused r := rfl

/-- What the host holds exchanged: the contents of `MSG` and the input ports. -/
def State.withHost (s : State) (m : Memory) (p : Ports) : State := { s with msg := m, ports := p }

@[simp] theorem State.withHost_dg (s : State) (m : Memory) (p : Ports) : (s.withHost m p).dg = s.dg := rfl
@[simp] theorem State.withHost_hx (s : State) (m : Memory) (p : Ports) : (s.withHost m p).hx = s.hx := rfl
@[simp] theorem State.withHost_regWords (s : State) (m : Memory) (p : Ports) :
    (s.withHost m p).regWords = s.regWords := rfl

/-! The host's part and an update of the core's commute. -/

theorem State.withHost_withSeq (s : State) (m : Memory) (p : Ports) (w : BitVec 12) :
    (s.withHost m p).withSeq w = (s.withSeq w).withHost m p := rfl

theorem State.withHost_withPhase (s : State) (m : Memory) (p : Ports) (f : Phase) :
    (s.withHost m p).withPhase f = (s.withPhase f).withHost m p := rfl

theorem State.withHost_withDg (s : State) (m : Memory) (p : Ports) (d : Memory) :
    (s.withHost m p).withDg d = (s.withDg d).withHost m p := rfl

theorem State.withHost_withHx (s : State) (m : Memory) (p : Ports) (d : Memory) :
    (s.withHost m p).withHx d = (s.withHx d).withHost m p := rfl

theorem State.withHost_msg_eq (s : State) (p : Ports) : s.withHost s.msg p = s.withPorts p := rfl

theorem State.withHost_ports_eq (s : State) (m : Memory) : s.withHost m s.ports = s.withMsg m := rfl

theorem Memory.readBytes_congr {m m' : Memory} {a n : Nat} (h : ∀ t, t < n → m'.read (a + t) = m.read (a + t)) :
    m'.readBytes a n = m.readBytes a n := by
  induction n generalizing a with
  | zero => rfl
  | succ n ih =>
    have hfirst : m'.read a = m.read a := h 0 n.succ_pos
    have hrest : m'.readBytes (a + 1) n = m.readBytes (a + 1) n := ih fun t ht => by
      rw [Nat.add_assoc, Nat.add_comm 1 t]
      exact h (t + 1) (by omega)
    rw [Memory.readBytes, Memory.readBytes, hfirst, hrest]

theorem memRead_withHost_msg {s : State} {m : Memory} {p : Ports} {n : Nat} (h : ∀ a, a < n → m.read a = s.msg.read a) :
    memRead (s.withHost m p) .msg 0 n = memRead s .msg 0 n := by
  have hbytes : Memory.readBytes m 0 n = Memory.readBytes s.msg 0 n :=
    Memory.readBytes_congr fun t ht => by rw [Nat.zero_add]; exact h t ht
  rw [memRead, memRead, show (s.withHost m p).size .msg = s.size .msg from rfl,
    show ((s.withHost m p).space .msg).readBytes 0 n = (s.space .msg).readBytes 0 n from hbytes]

theorem memRead_withHost {s : State} {m : Memory} {p : Ports} {sp : Space} (hsp : sp ≠ .msg) (a n : Nat) :
    memRead (s.withHost m p) sp a n = memRead s sp a n := by
  cases sp with
  | msg => exact absurd rfl hsp
  | pm | blkbuf | dg | hx => rfl

/-! A read that stops, stops its micro-operation with the same fault (R34). -/

theorem exec_pad_of_memRead_error {s : State} {f : Fault} (h : memRead s .msg 0 s.lreg.value.toNat = .error f) :
    exec .pad s = .fault f := by
  simp only [exec, execPad, h]

theorem exec_ldblk_of_memRead_error {s : State} {f : Fault} (h : memRead s .pm (blockAddress s) 64 = .error f) :
    exec .ldblk s = .fault f := by
  simp only [exec, execLdblk, h]

theorem exec_ldw_of_memRead_error {s : State} {j : BitVec 7} {f : Fault} (hj : j.toNat ≤ 15)
    (h : memRead s .blkbuf (ldwAddress j) 4 = .error f) : exec (.ldw j) s = .fault f := by
  simp only [exec, execLdw, dif_pos hj, h]

theorem exec_withHost_of_next {i : Instr} {s t : State} {m : Memory} {p : Ports} (h : exec i s = .next t)
    (h' : exec i (s.withHost m p) = .next (t.withHost m p)) :
    exec i (s.withHost m p) = mapNext (·.withHost m p) (exec i s) := by
  rw [h, h', mapNext_next]

theorem command_withHost (op q : BitVec 1) (l : BitVec 64) (s : State) (m : Memory) (p : Ports) :
    command op q l (s.withHost m p) = (command op q l s).withHost m p := by
  obtain ⟨hr, heq⟩ | ⟨hr, heq⟩ := command_cases op q l s <;> rw [heq]
  · exact if_pos hr
  · exact if_neg hr

/-- Only `PAD` reads `MSG`, below `LREG`, and only `WAIT` reads the command ports. -/
theorem exec_withHost {s : State} {m : Memory} {p : Ports} {i : Instr} (hwait : i = .wait → p = s.ports)
    (hpad : i = .pad → ∀ a, a < s.lreg.value.toNat → m.read a = s.msg.read a) :
    exec i (s.withHost m p) = mapNext (·.withHost m p) (exec i s) := by
  cases i with
  | wait =>
    obtain rfl := hwait rfl
    by_cases hv : s.ports.cmdValid = 1#1
    · exact exec_withHost_of_next (exec_wait_of_valid hv) (exec_wait_of_valid (s := s.withHost m s.ports) hv)
    · exact exec_withHost_of_next (exec_wait_of_not_valid hv) (exec_wait_of_not_valid (s := s.withHost m s.ports) hv)
  | chk =>
    cases hcheck : checkInput Config.used.lmax s.pres.value s.lreg.value with
    | some e => exact exec_withHost_of_next (exec_chk_of_error hcheck) (exec_chk_of_error (s := s.withHost m p) hcheck)
    | none =>
      obtain ⟨hp, hl⟩ := checkInput_eq_none_iff.1 hcheck
      exact exec_withHost_of_next (exec_chk_of_valid hp hl) (exec_chk_of_valid (s := s.withHost m p) hp hl)
  | pad =>
    have hread := memRead_withHost_msg (p := p) (hpad rfl)
    cases hm : memRead s .msg 0 s.lreg.value.toNat with
    | error f =>
      rw [exec_pad_of_memRead_error hm]
      exact exec_pad_of_memRead_error (s := s.withHost m p) (hread.trans hm)
    | ok bs =>
      exact exec_withHost_of_next (exec_pad_of_memRead hm)
        (exec_pad_of_memRead (s := s.withHost m p) (hread.trans hm))
  | ldblk =>
    have hread := memRead_withHost (s := s) (m := m) (p := p) (sp := .pm) nofun (blockAddress s) 64
    cases hm : memRead s .pm (blockAddress s) 64 with
    | error f =>
      rw [exec_ldblk_of_memRead_error hm]
      exact exec_ldblk_of_memRead_error (s := s.withHost m p) (hread.trans hm)
    | ok bs =>
      exact exec_withHost_of_next (exec_ldblk_of_memRead hm)
        (exec_ldblk_of_memRead (s := s.withHost m p) (hread.trans hm))
  | ldw j =>
    have hread := memRead_withHost (s := s) (m := m) (p := p) (sp := .blkbuf) nofun (ldwAddress j) 4
    by_cases hj : j.toNat ≤ 15
    · cases hm : memRead s .blkbuf (ldwAddress j) 4 with
      | error f =>
        rw [exec_ldw_of_memRead_error hj hm]
        exact exec_ldw_of_memRead_error (s := s.withHost m p) hj (hread.trans hm)
      | ok bs =>
        have hd : (⟨j.toNat, by omega⟩ : Fin 132).val = j.toNat := rfl
        exact exec_withHost_of_next (exec_ldw_of_memRead hj hd hm)
          (exec_ldw_of_memRead (s := s.withHost m p) hj hd (hread.trans hm))
    · simp only [exec, execLdw, dif_neg hj, mapNext_refused]
  | wgen j =>
    by_cases hj : 16 ≤ j.toNat ∧ j.toNat ≤ 67
    · simp only [exec, execWgen, dif_pos hj, mapNext_next]
      rfl
    · simp only [exec, execWgen, dif_neg hj, mapNext_refused]
  | wpgen j =>
    by_cases hj : j.toNat ≤ 63
    · simp only [exec, execWpgen, dif_pos hj, mapNext_next]
      rfl
    · simp only [exec, execWpgen, dif_neg hj, mapNext_refused]
  | round j =>
    by_cases hj : j.toNat ≤ 63
    · simp only [exec, execRound, dif_pos hj, mapNext_next]
      rfl
    · simp only [exec, execRound, dif_neg hj, mapNext_refused]
  | digest =>
    have hword : (if (s.withHost m p).cmdop.value = 1#1 then 0xD00#12 else 0xE00#12) =
        if s.cmdop.value = 1#1 then 0xD00#12 else 0xE00#12 := rfl
    simp only [exec_digest, hword, mapNext_next, State.withHost_dg, State.withHost_regWords, State.withHost_withDg,
      State.withHost_withPhase, State.withHost_withSeq]
  | hex =>
    simp only [exec_hex, mapNext_next, State.withHost_hx, State.withHost_regWords, State.withHost_withHx,
      State.withHost_withSeq]
  | init | save | ffwd | nxtb | done => rfl
  | compute q l => exact congrArg Host.Outcome.next (command_withHost 0 q l s m p)
  | computeHex q l => exact congrArg Host.Outcome.next (command_withHost 1 q l s m p)

theorem msg_ports_of_exec {i : Instr} {s t : State} (h : exec i s = .next t) : t.msg = s.msg ∧ t.ports = s.ports := by
  obtain ⟨-, -, -, -, -, -, -, -, -, -, -, -, hhost⟩ := onlyTheListedWritersWrite i s t h
  exact hhost

theorem msg_ports_of_step {s t : State} (h : step s = .next t) : t.msg = s.msg ∧ t.ports = s.ports := by
  obtain ⟨-, heq⟩ | ⟨-, r, -, heq⟩ | ⟨-, i, -, heq⟩ := step_cases s <;> rw [heq] at h
  · cases h
    exact ⟨rfl, rfl⟩
  · cases h
  · exact msg_ports_of_exec h

theorem step_of_reserved {s : State} (hrst : s.ports.rst ≠ 1#1) {r : Reject} (hr : decodeU s.seq = .error r) :
    step s = .refused .reservedWord := by
  simp only [step, if_neg hrst, fetch_of_reserved ((decodeU_error_iff _).1 ⟨r, hr⟩)]

theorem seq_eq_of_decodeU_pad {w : BitVec 12} (h : decodeU w = .ok .pad) : w = 0x200#12 := by
  have henc : encode .pad = .u w := (encodeInvertsDecode (.u w) .pad h).1
  exact (CodeWord.u.inj henc).symm

/-- The same for a step; `rst` it always looks at (R161). -/
theorem step_withHost {s : State} {m : Memory} {p : Ports} (hrst : p.rst = s.ports.rst)
    (hwait : s.seq = 0x000#12 → p = s.ports)
    (hpad : s.seq = 0x200#12 → ∀ a, a < s.lreg.value.toNat → m.read a = s.msg.read a) :
    step (s.withHost m p) = mapNext (·.withHost m p) (step s) := by
  by_cases hreset : s.ports.rst = 1#1
  · rw [step_of_reset hreset, step_of_reset (s := s.withHost m p) (hrst.trans hreset)]
    rfl
  · have hreset' : (s.withHost m p).ports.rst ≠ 1#1 := fun h => hreset (hrst.symm.trans h)
    cases hd : decodeU s.seq with
    | error r =>
      rw [step_of_reserved hreset hd, step_of_reserved hreset' hd, mapNext_refused]
    | ok i =>
      rw [step_of_decodeU hreset hd, step_of_decodeU hreset' hd]
      refine exec_withHost (fun hi => hwait ?_) (fun hi => hpad ?_)
      · exact (seq_zero_iff_decodeU_wait _).2 (hi ▸ hd)
      · exact seq_eq_of_decodeU_pad (hi ▸ hd)

/-- An outcome that is another's with its next state changed is of the same kind. -/
theorem outcome_of_mapNext {o o' : Host.Outcome State Fault Refusal} {f : State → State} (h : o' = mapNext f o) :
    (∀ t, o = .next t → o' = .next (f t)) ∧ (∀ r, o = .fault r → o' = .fault r) ∧
      ∀ r, o = .refused r → o' = .refused r := by
  subst h
  refine ⟨?_, ?_, ?_⟩ <;> rintro _ rfl <;> rfl

/-- Settles O41: the step of the one host is that of the other, which leaves `MSG` as it is. -/
theorem commandPortsAreIgnoredWhileBusy : Obligations.CommandPortsAreIgnoredWhileBusy := by
  intro s p q hseq hrst
  obtain ⟨hnext, hstops⟩ := outcome_of_mapNext
    (step_withHost (s := s.withPorts p) (m := s.msg) (p := q) hrst.symm (fun h => absurd h hseq) (fun _ _ _ => rfl))
  refine ⟨fun t ht => (hnext t ht).trans ?_, hstops⟩
  rw [show s.msg = t.msg from (msg_ports_of_step ht).1.symm, State.withHost_msg_eq]

/-- Settles O42: the step on the one memory is that on the other, which leaves the ports as they are. -/
theorem messageIsReadByPadAlone : Obligations.MessageIsReadByPadAlone := by
  intro s m h
  obtain ⟨hnext, hstops⟩ := outcome_of_mapNext
    (step_withHost (s := s) (m := m) (p := s.ports) rfl (fun _ => rfl) (fun hpad => h.resolve_left (not_not.2 hpad)))
  refine ⟨fun t ht => (hnext t ht).trans ?_, hstops⟩
  rw [← (msg_ports_of_step ht).2, State.withHost_ports_eq]

end Sys2Proof.Machine
end

section
/-! PROOFS. Byte order (R7) and the character codes (R116), the stops of `PAD`, `LDBLK` and `LDW` (R34, R40), and the
result ports (R31). -/

namespace Sys2Proof.Machine

/-! Byte order (R7). -/

theorem extractLsb'_be32 (b0 b1 b2 b3 : Byte) (k : Nat) :
    (be32 b0 b1 b2 b3).extractLsb' k 8 =
      BitVec.ofNat 8 ((b0.toNat * 2 ^ 24 + b1.toNat * 2 ^ 16 + b2.toNat * 2 ^ 8 + b3.toNat) / 2 ^ k) := by
  rw [extractLsb'_eq_ofNat_div, toNat_be32]

theorem unbe32_be32 (b0 b1 b2 b3 : Byte) : unbe32 (be32 b0 b1 b2 b3) = [b0, b1, b2, b3] := by
  have hbyte {n : Nat} {b : Byte} (h : n % 256 = b.toNat) : BitVec.ofNat 8 n = b :=
    BitVec.eq_of_toNat_eq ((BitVec.toNat_ofNat n 8).trans h)
  rw [unbe32, extractLsb'_be32, extractLsb'_be32, extractLsb'_be32, extractLsb'_be32, hbyte (b := b0) (by omega),
    hbyte (b := b1) (by omega), hbyte (b := b2) (by omega), hbyte (b := b3) (by omega)]

/-- Settles O3: `BE32` by its sum, and each byte of `UNBE32` and `UNBE64` by division. -/
theorem byteOrderIsBigEndian : Obligations.ByteOrderIsBigEndian := by
  refine ⟨fun b0 b1 b2 b3 => ⟨toNat_be32 b0 b1 b2 b3, unbe32_be32 b0 b1 b2 b3⟩, fun w t ht => ⟨rfl, ?_⟩,
    fun v t ht => ⟨rfl, ?_⟩⟩
  · rw [List.getD_eq_getElem?_getD, getElem?_unbe32 w ht, extractLsb'_eq_ofNat_div, Option.getD_some]
    exact BitVec.toNat_ofNat _ 8
  · rw [List.getD_eq_getElem?_getD, getElem?_unbe64 v ht, Option.getD_some]
    exact BitVec.toNat_ofNat _ 8

/-- Settles O6: sixteen digits evaluated. -/
theorem hexcharIsLowercaseAscii : Obligations.HexcharIsLowercaseAscii := by
  unfold Obligations.HexcharIsLowercaseAscii
  decide

/-! `PM` beyond the PaddedMessage (R40). -/

/-- Settles O15: the bytes `PAD` writes into an empty memory end where the blocks it counts end. -/
theorem padLeavesNothingBeyondThePaddedMessage : Obligations.PadLeavesNothingBeyondThePaddedMessage := by
  intro s t h a ha
  cases completes_of_exec h with
  | @pad m hm =>
    rw [State.withSeq_nblk, State.withPhase_nblk, State.withPm_nblk, State.withLengths_nblk, Slot.hold_value,
      toNat_blockCount (length_lt_of_memRead_msg hm), ← paddedBytes_length] at ha
    rw [State.withSeq_pm, State.withPhase_pm, State.withPm_pm, Memory.read_writeBytes_zero_of_length_le _ ha,
      Memory.read_nil]

/-! Reads that stop (R34, R40). -/

theorem memRead_outside {s : State} {sp : Space} {a n : Nat} (h : s.size sp < a + n) :
    memRead s sp a n = .error (.noSuchAddress sp) := by
  rw [memRead, if_neg (Nat.not_le.2 h)]

theorem memRead_missing {s : State} {sp : Space} {a n t : Nat} (hsize : a + n ≤ s.size sp) (ht : t < n)
    (hnone : (s.space sp).read (a + t) = none) : memRead s sp a n = .error (.noValue sp) := by
  cases hbytes : (s.space sp).readBytes a n with
  | none => simp only [memRead, if_pos hsize, hbytes]
  | some bs =>
    obtain ⟨hlen, hread⟩ := Memory.readBytes_eq_some.1 hbytes
    have hbyte := (hread t ht).symm.trans hnone
    rw [List.getElem?_eq_none_iff] at hbyte
    omega

/-- Settles O16: each stop is that of the one read its micro-operation makes. -/
theorem missingBytesFault : Obligations.MissingBytesFault := by
  intro s
  refine ⟨fun hl => ?_, fun hl a ha hnone => ?_, fun hblk => ?_, fun hblk a ha hnone => ?_, fun j hj a ha hnone => ?_⟩
  · refine exec_pad_of_memRead_error (memRead_outside ?_)
    rw [State.size, lmax_used]
    rw [lmax_used] at hl
    omega
  · have hsize : 0 + s.lreg.value.toNat ≤ s.size .msg := by rw [State.size]; omega
    exact exec_pad_of_memRead_error (memRead_missing hsize ha (by rw [Nat.zero_add]; exact hnone))
  · refine exec_ldblk_of_memRead_error (memRead_outside ?_)
    rw [State.size, blockAddress]
    omega
  · exact exec_ldblk_of_memRead_error (memRead_missing (blockAddress_add_le_size_pm hblk) ha hnone)
  · have hsize : ldwAddress j + 4 ≤ s.size .blkbuf := by rw [ldwAddress, State.size]; omega
    exact exec_ldw_of_memRead_error hj (memRead_missing hsize ha hnone)

/-! The result ports (R31). -/

theorem beNat_append_singleton (bs : List Byte) (b : Byte) : beNat (bs ++ [b]) = beNat bs * 256 + b.toNat := by
  simp [beNat]

/-- R7: the byte `k` places before the last has weight `256 ^ k`. -/
theorem beNat_div_mod {bs : List Byte} {k : Nat} (hk : k < bs.length) :
    some (BitVec.ofNat 8 (beNat bs / 256 ^ k)) = bs[bs.length - 1 - k]? := by
  induction bs using List.reverseRecOn generalizing k with
  | nil => exact absurd hk (Nat.not_lt_zero k)
  | append_singleton bs b ih =>
    rw [beNat_append_singleton]
    rw [List.length_append, List.length_singleton] at hk ⊢
    cases k with
    | zero =>
      have hb : BitVec.ofNat 8 ((beNat bs * 256 + b.toNat) / 256 ^ 0) = b := by
        apply BitVec.eq_of_toNat_eq
        rw [BitVec.toNat_ofNat, Nat.pow_zero, Nat.div_one]
        omega
      rw [hb, Nat.add_sub_cancel, Nat.sub_zero, List.getElem?_concat_length]
    | succ k =>
      have hlast : (beNat bs * 256 + b.toNat) / 256 = beNat bs := by omega
      rw [Nat.pow_succ', ← Nat.div_div_eq_div_mul, hlast, ih (by omega), List.getElem?_append_left (by omega)]
      congr 1
      omega

/-- R31: byte `a` of a port of `n` bytes stands `n - 1 - a` bytes above its lowest. -/
theorem getElem?_eq_extractLsb'_beNat {bs : List Byte} {n a : Nat} (hn : bs.length = n) (ha : a < n) :
    bs[a]? = some ((BitVec.ofNat (8 * n) (beNat bs)).extractLsb' (8 * (n - 1 - a)) 8) := by
  have hidx : bs.length - 1 - (n - 1 - a) = a := by omega
  have hpow : (256 : Nat) ^ (n - 1 - a) = 2 ^ (8 * (n - 1 - a)) := by rw [Nat.pow_mul]
  have hbyte := beNat_div_mod (bs := bs) (k := n - 1 - a) (by omega)
  rw [hidx, hpow] at hbyte
  rw [← hbyte]
  congr 1
  ext b hb
  rw [BitVec.getElem_extractLsb', BitVec.getLsbD_ofNat, ← BitVec.getLsbD_eq_getElem, BitVec.getLsbD_ofNat,
    Nat.testBit_div_two_pow, decide_eq_true (by omega : 8 * (n - 1 - a) + b < 8 * n), decide_eq_true hb, Bool.true_and,
    Bool.true_and, Nat.add_comm]

/-- R31: a value of a port is the bytes of its space, the first most significant. -/
theorem read_of_memRead_zero {s : State} {sp : Space} {n : Nat} {bs : List Byte} (h : memRead s sp 0 n = .ok bs) {a : Nat}
    (ha : a < n) :
    (s.space sp).read a = some ((BitVec.ofNat (8 * n) (beNat bs)).extractLsb' (8 * (n - 1 - a)) 8) := by
  obtain ⟨-, hlen, hread⟩ := memRead_eq_ok.1 h
  rw [← getElem?_eq_extractLsb'_beNat hlen ha, ← hread a ha, Nat.zero_add]

theorem digestPort_of_memRead {s : State} {bs : List Byte} (hv : s.rspValid = 1#1) (hok : s.rspStatus = .ok)
    (h : memRead s .dg 0 32 = .ok bs) : digestPort s = .ok (BitVec.ofNat 256 (beNat bs)) := by
  simp only [digestPort, if_pos (And.intro hv hok), h]

theorem hexPort_of_memRead {s : State} {bs : List Byte} (hv : s.rspValid = 1#1) (hok : s.rspStatus = .ok)
    (hop : s.cmdop.value = 1#1) (h : memRead s .hx 0 64 = .ok bs) :
    hexPort s = .ok (BitVec.ofNat 512 (beNat bs)) := by
  simp only [hexPort, if_pos (And.intro hv (And.intro hok hop)), h]

theorem digestPort_of_no_result {s : State} (h : ¬(s.rspValid = 1#1 ∧ s.rspStatus = .ok)) :
    digestPort s = .error .noResult := if_neg h

theorem hexPort_of_no_result {s : State} (h : ¬(s.rspValid = 1#1 ∧ s.rspStatus = .ok ∧ s.cmdop.value = 1#1)) :
    hexPort s = .error .noResult := if_neg h

theorem memRead_of_digestPort {s : State} {v : BitVec 256} (h : digestPort s = .ok v) :
    ∃ bs, memRead s .dg 0 32 = .ok bs ∧ v = BitVec.ofNat 256 (beNat bs) := by
  rw [digestPort] at h
  split at h
  · split at h <;> cases h
    exact ⟨_, ‹_›, rfl⟩
  · cases h

theorem memRead_of_hexPort {s : State} {v : BitVec 512} (h : hexPort s = .ok v) :
    ∃ bs, memRead s .hx 0 64 = .ok bs ∧ v = BitVec.ofNat 512 (beNat bs) := by
  rw [hexPort] at h
  split at h
  · split at h <;> cases h
    exact ⟨_, ‹_›, rfl⟩
  · cases h

/-- Settles O51: without a result the ports stop, and a value is the number its bytes denote. -/
theorem resultPortsAreDefinedOnlyWithAResult : Obligations.ResultPortsAreDefinedOnlyWithAResult := by
  intro s
  refine ⟨fun h => ⟨digestPort_of_no_result h, hexPort_of_no_result fun ⟨hv, hok, _⟩ => h ⟨hv, hok⟩⟩, fun hop => ?_,
    fun v hv a ha => ?_, fun v hv a ha => ?_⟩
  · exact hexPort_of_no_result fun ⟨_, _, hone⟩ => absurd (hop.symm.trans hone) (by decide)
  · obtain ⟨bs, hbs, rfl⟩ := memRead_of_digestPort hv
    have hbit : 248 - 8 * a = 8 * (32 - 1 - a) := by omega
    rw [hbit]
    exact read_of_memRead_zero hbs ha
  · obtain ⟨bs, hbs, rfl⟩ := memRead_of_hexPort hv
    have hbit : 504 - 8 * a = 8 * (64 - 1 - a) := by omega
    rw [hbit]
    exact read_of_memRead_zero hbs ha

end Sys2Proof.Machine
end

section
/-! PROOFS. One step: which instruction it runs (R28, R125), the boundary operations and commands (R125, R135), reset
(R160, R161) and the host's side (R31, R135). -/

open Sys2Proof.Claims

namespace Sys2Proof.Machine

/-! The instruction a step runs (R28, R60). -/

theorem step_of_command {s : State} (hrst : s.ports.rst ≠ 1#1) (hs : s.seq = 0x000#12) (hv : s.ports.cmdValid = 1#1) :
    step s = exec (decodeHC (portWord s)) s := by
  simp only [step, if_neg hrst, fetch_of_command (And.intro hs hv)]

theorem exec_portWord (s : State) :
    exec (decodeHC (portWord s)) s =
      if s.ports.cmdOp = 0#1 then exec (.compute s.ports.msgPresent s.ports.msgLen) s
      else exec (.computeHex s.ports.msgPresent s.ports.msgLen) s := by
  rw [decodeHC_portWord]
  obtain hop | hop := BitVec.eq_zero_or_eq_one s.ports.cmdOp <;> rw [hop]
  · rfl
  · rfl

/-- Settles O11: the word in `SEQ`, or at `WAIT` the one on the ports. -/
theorem stepRunsTheFetchedInstruction : Obligations.StepRunsTheFetchedInstruction := by
  intro s hrst
  have hno : s.ports.rst ≠ 1#1 := by rw [hrst]; decide
  refine ⟨fun i hi _ => step_of_decodeU hno hi, fun hs _ => ?_, fun hs hv => ?_⟩
  · exact step_of_decodeU hno ((seq_zero_iff_decodeU_wait _).1 hs)
  · rw [step_of_command hno hs hv, exec_portWord]

/-- Settles O37: the command word on the ports does what `WAIT` does with it. -/
theorem waitDoesWhatTheCommandDoes : Obligations.WaitDoesWhatTheCommandDoes := by
  intro s hs hv
  rw [← exec_portWord, exec_portWord_eq_exec_wait hs hv]

theorem step_placeWord {s : State} {c : CodeWord} {i : Instr} (h : decode c = .ok i) :
    step (placeWord s c) = exec i (placeWord s c) := by
  have hno : (0#1 : BitVec 1) ≠ 1#1 := by decide
  cases c with
  | u w => exact step_of_decodeU (s := placeWord s (.u w)) hno h
  | hc w =>
    obtain rfl : decodeHC w = i := Except.ok.inj h
    have hword : portWord (placeWord s (.hc w)) = w := commandWord_of_fields w
    rw [step_of_command (s := placeWord s (.hc w)) hno rfl rfl, hword]

theorem decodeTableWord_eq_some {nbits w : Nat} {i : Instr} (h : decodeTableWord nbits w = some i) :
    ∃ c, tableWord nbits w = some c ∧ decode c = .ok i := by
  rw [decodeTableWord] at h
  cases htable : tableWord nbits w with
  | none => simp only [htable, reduceCtorEq] at h
  | some c =>
    cases hdec : decode c with
    | error r => simp only [htable, hdec, reduceCtorEq] at h
    | ok j =>
      simp only [htable, hdec, Option.some.injEq] at h
      exact ⟨c, rfl, h ▸ hdec⟩

theorem State.withFetchWord_of_tableWord (s : State) {nbits w : Nat} {c : CodeWord} (h : tableWord nbits w = some c) :
    s.withFetchWord nbits w = placeWord s c := by
  simp only [State.withFetchWord, h]

/-- Settles O12: a table word that decodes stands for a code word that decodes. -/
theorem placedWordIsRun : Obligations.PlacedWordIsRun := by
  intro s nbits w i h
  obtain ⟨c, htable, hdec⟩ := decodeTableWord_eq_some h
  rw [s.withFetchWord_of_tableWord htable]
  exact step_placeWord hdec

/-- Settles O23: outside its range an indexed micro-operation has no meaning. -/
theorem outOfRangeIndexIsRefused : Obligations.OutOfRangeIndexIsRefused := by
  intro s j
  refine ⟨fun h => ?_, fun h => ?_, fun h => ?_, fun h => ?_⟩
  · exact dif_neg (Nat.not_le.2 h)
  · exact dif_neg (by omega)
  · exact dif_neg (Nat.not_le.2 h)
  · exact dif_neg (Nat.not_le.2 h)

/-! The boundary operations and commands. -/

theorem exec_nxtb (s : State) :
    exec .nxtb s = .next ((s.withBlk (nextBlk s.blk.value)).withSeq
      (if s.blk.value.toNat + 1 = s.nblk.value.toNat then 0xC00#12 else 0x400#12)) := rfl

/-- Settles O19: the two registers `NXTB` writes. -/
theorem nxtbCountsBlocks : Obligations.NxtbCountsBlocks :=
  fun s => ⟨_, exec_nxtb s, rfl, toNat_nextBlk, rfl, rfl⟩

/-- Settles O26: each assignment reads registers none before it has written. -/
theorem sequentialAssignmentsEqualTheRound : Obligations.SequentialAssignmentsEqualTheRound :=
  fun _ _ _ _ _ => rfl

/-- Settles O31: the two branches of `WAIT`. -/
theorem waitHoldsOrAccepts : Obligations.WaitHoldsOrAccepts := by
  intro s
  refine ⟨fun hv => exec_wait_of_not_valid (by rw [hv]; decide), fun hv => ⟨_, exec_wait_of_valid hv, ?_⟩⟩
  rw [accept_eq]
  exact ⟨rfl, rfl, rfl, rfl, rfl, fun a => ⟨Memory.read_nil a, Memory.read_nil a⟩, rfl, rfl⟩

/-- Settles O33: the tests for any bound; a length below both readings' bounds is below each bound between them. -/
theorem lengthTestAgreesUnderBothReadings : Obligations.LengthTestAgreesUnderBothReadings := by
  refine ⟨by rw [lmax_used]; decide, by rw [lmax_used], fun lmax len hlo hhi => ⟨fun hl => ?_, fun hl => ?_, ?_⟩⟩
  · exact checkInput_eq_none_iff.2 ⟨rfl, hl.trans_le hlo⟩
  · exact checkInput_of_le rfl (hhi.trans hl)
  · exact checkInput_of_absent lmax len rfl

theorem command_of_busy {s : State} (h : s.seq.toNat / 256 ≠ 0) (op p : BitVec 1) (l : BitVec 64) :
    command op p l s = s := by
  refine if_neg ?_
  rw [cmdReady_eq, if_neg h]
  decide

/-- Settles O36: ready at `WAIT`, busy elsewhere. -/
theorem commandsAreAcceptedWhenReady : Obligations.CommandsAreAcceptedWhenReady := by
  intro s p l
  refine ⟨fun hs => ⟨?_, ?_⟩, fun hbusy => ⟨?_, ?_⟩⟩
  · exact congrArg Host.Outcome.next ((command_of_seq_zero hs 0 p l).trans (accept_eq 0 p l s))
  · exact congrArg Host.Outcome.next ((command_of_seq_zero hs 1 p l).trans (accept_eq 1 p l s))
  · exact congrArg Host.Outcome.next (command_of_busy hbusy 0 p l)
  · exact congrArg Host.Outcome.next (command_of_busy hbusy 1 p l)

/-- Settles O59: the words evaluated, and `INIT` writes them. -/
theorem initialVectorIsTheStatedWords : Obligations.InitialVectorIsTheStatedWords :=
  ⟨rfl, fun s => ⟨_, exec_init s, rfl⟩⟩

/-! Reset (R160, R161). -/

/-- Settles O49: the fields of the reset state. -/
theorem resetLeavesTheStatedValues : Obligations.ResetLeavesTheStatedValues := by
  refine ⟨rfl, rfl, rfl, rfl, rfl, by decide, by decide, fun k => ?_, rfl, rfl, rfl, rfl, rfl, rfl,
    fun a => ⟨rfl, rfl, rfl, rfl⟩⟩
  have hblank : State.reset.xw[k] = Slot.blank 32 := Vector.getElem_replicate _
  rw [hblank]
  rfl

/-- Settles O50: `rst` is looked at first, and the state after it has no response. -/
theorem resetWinsAtAnyStep : Obligations.ResetWinsAtAnyStep := by
  intro s hrst
  have hinvalid : ¬(0#1 = 1#1) := by decide
  exact ⟨step_of_reset hrst, digestPort_of_no_result fun h => hinvalid h.1, hexPort_of_no_result fun h => hinvalid h.1⟩

/-! The host's side (R31, R135). -/

/-- Settles O52: the three answers to a host write. -/
theorem hostWritesOnlyFreeMessageBytes : Obligations.HostWritesOnlyFreeMessageBytes := by
  intro s a b
  refine ⟨fun huse => if_pos huse, fun huse hsize => ?_, fun huse hsize => ?_⟩
  · refine ⟨s.withMsg (s.msg.write a b), ?_, Memory.read_write_same _ _ _, fun x hx => Memory.read_write_other _ _ hx, rfl⟩
    exact (if_neg (Nat.not_lt.2 huse)).trans (if_pos hsize)
  · exact (if_neg (Nat.not_lt.2 huse)).trans (if_neg (Nat.not_lt.2 hsize))

theorem toNat_statusPort (s : State) :
    (statusPort s).toNat = if s.rspStatus = .ok then 0 else if s.rspStatus = .nullInput then 1 else 2 := by
  rw [statusPort]
  cases s.rspStatus <;> rfl

theorem toNat_phasePort (s : State) :
    (phasePort s).toNat =
      if s.phase = .idle then 0 else if s.phase = .padded then 1 else if s.phase = .expanded then 2
      else if s.phase = .compressed then 3 else 4 := by
  rw [phasePort]
  cases s.phase <;> rfl

/-- Settles O60: the codes, case by case, and the responses of `CHK` and `DONE`. -/
theorem statusAndPhasePortsShowTheirCodes : Obligations.StatusAndPhasePortsShowTheirCodes := by
  intro s
  refine ⟨toNat_statusPort s, toNat_phasePort s, ?_, ?_, cmdReady_eq s, fun hp => ?_, fun hp hl => ?_,
    ⟨_, exec_done s, rfl, rfl⟩⟩
  · rw [toNat_statusPort]
    split_ifs <;> decide
  · rw [toNat_phasePort]
    split_ifs <;> decide
  · exact ⟨_, exec_chk_of_error (checkInput_of_absent _ _ hp), rfl, rfl⟩
  · exact ⟨_, exec_chk_of_error (checkInput_of_le hp hl), rfl, rfl⟩

end Sys2Proof.Machine
end

section
/-! PROOFS. Several micro-operations one after the other: what the host presents at their steps, no reset, makes no
difference (R125), so a run is a list of instructions from state to state. -/

open Sys2Proof.Claims

namespace Sys2Proof.Machine

/-- The micro-operations `is`, each named by the `SEQ` it finds, lead from the one state to the other. -/
inductive Runs : List Instr → State → State → Prop
  | nil (s : State) : Runs [] s s
  | cons {i : Instr} {is : List Instr} {s t u : State} (hi : decodeU s.seq = .ok i) (hne : i ≠ .wait)
    (he : exec i s = .next t) (h : Runs is t u) : Runs (i :: is) s u

theorem Runs.single {i : Instr} {s t : State} (hi : decodeU s.seq = .ok i) (hne : i ≠ .wait) (he : exec i s = .next t) :
    Runs [i] s t := .cons hi hne he (.nil t)

theorem Runs.append {is js : List Instr} {s t u : State} (h : Runs is s t) (h' : Runs js t u) :
    Runs (is ++ js) s u := by
  induction h with
  | nil => exact h'
  | cons hi hne he _ ih => exact .cons hi hne he (ih h')

theorem exec_withPorts {i : Instr} {s t : State} (hne : i ≠ .wait) (he : exec i s = .next t) (p : Ports) :
    exec i (s.withPorts p) = .next (t.withPorts p) := by
  have h := exec_withHost (s := s) (m := s.msg) (p := p) (fun hw => absurd hw hne) (fun _ _ _ => rfl)
  rw [he, mapNext_next, show s.msg = t.msg from (msg_ports_of_exec he).1.symm, State.withHost_msg_eq,
    (msg_ports_of_exec he).1, State.withHost_msg_eq] at h
  exact h

theorem Runs.withPorts {is : List Instr} {s t : State} (h : Runs is s t) (p : Ports) :
    Runs is (s.withPorts p) (t.withPorts p) := by
  induction h with
  | nil => exact .nil _
  | cons hi hne he _ ih => exact .cons hi hne (exec_withPorts hne he p) ih

/-- The step that runs a micro-operation other than `WAIT`, whatever is presented but a reset. -/
theorem step_withPorts {i : Instr} {s t : State} {p : Ports} (hp : p.rst = 0#1) (hi : decodeU s.seq = .ok i)
    (hne : i ≠ .wait) (he : exec i s = .next t) : step (s.withPorts p) = .next (t.withPorts p) := by
  have hrst : (s.withPorts p).ports.rst ≠ 1#1 := by rw [State.withPorts_ports, hp]; decide
  rw [step_of_decodeU (s := s.withPorts p) hrst hi, exec_withPorts hne he p]

theorem runInputs_cons_of_step {p : Ports} {s t : State} (h : step (s.withPorts p) = .next t) (ps : List Ports) :
    runInputs (p :: ps) s = runInputs ps t := by
  rw [runInputs, h]

theorem runInputs_cons_of_fault {p : Ports} {s : State} {f : Fault} (h : step (s.withPorts p) = .fault f)
    (ps : List Ports) : runInputs (p :: ps) s = .fault f := by
  rw [runInputs, h]

theorem trace_cons_of_step {p : Ports} {s t : State} (h : step (s.withPorts p) = .next t) (ps : List Ports) :
    trace (p :: ps) s = executed (s.withPorts p) :: trace ps t := by
  rw [trace, h]

theorem phases_cons_of_step {p : Ports} {s t : State} (h : step (s.withPorts p) = .next t) (ps : List Ports) :
    phases (p :: ps) s = t.phase :: phases ps t := by
  rw [phases, h]

theorem noReset_head {p : Ports} {ps : List Ports} (h : NoReset (p :: ps)) : p.rst = 0#1 := h p List.mem_cons_self

theorem noReset_tail {p : Ports} {ps : List Ports} (h : NoReset (p :: ps)) : NoReset ps :=
  fun q hq => h q (List.mem_cons_of_mem p hq)

theorem noReset_drop {ps : List Ports} (h : NoReset ps) (n : Nat) : NoReset (ps.drop n) :=
  fun q hq => h q (List.mem_of_mem_drop hq)

theorem noReset_take {ps : List Ports} (h : NoReset ps) (n : Nat) : NoReset (ps.take n) :=
  fun q hq => h q (List.mem_of_mem_take hq)

/-- Inputs for at least the steps of a run: the run, then what is left of them. -/
theorem Runs.runInputs_eq {is : List Instr} {s t : State} {ps : List Ports} (h : Runs is s t) (hps : NoReset ps)
    (hlen : is.length ≤ ps.length) : ∃ p, runInputs ps s = runInputs (ps.drop is.length) (t.withPorts p) := by
  induction is generalizing s t ps with
  | nil =>
    cases h
    exact ⟨s.ports, rfl⟩
  | cons i is ih =>
    obtain ⟨p, ps, rfl⟩ := List.exists_cons_of_length_pos (Nat.lt_of_lt_of_le (Nat.succ_pos is.length) hlen)
    cases h with
    | cons hi hne he h =>
      rw [runInputs_cons_of_step (step_withPorts (noReset_head hps) hi hne he)]
      obtain ⟨q, hq⟩ := ih (h.withPorts p) (noReset_tail hps) (Nat.le_of_succ_le_succ hlen)
      exact ⟨q, hq⟩

/-- Inputs for exactly the steps of a run. -/
theorem Runs.runInputs_eq_next {is : List Instr} {s t : State} {ps : List Ports} (h : Runs is s t) (hps : NoReset ps)
    (hlen : ps.length = is.length) : ∃ p, runInputs ps s = .next (t.withPorts p) := by
  obtain ⟨p, hp⟩ := h.runInputs_eq hps hlen.ge
  rw [← hlen, List.drop_length] at hp
  exact ⟨p, hp⟩

/-- R134, R136: with fewer inputs the run is not over, and the core not at `WAIT`. -/
theorem Runs.runInputs_of_length_lt {is : List Instr} {s t : State} {ps : List Ports} (h : Runs is s t)
    (hps : NoReset ps) (hlen : ps.length < is.length) : ∃ u, runInputs ps s = .next u ∧ u.seq ≠ 0x000#12 := by
  induction is generalizing s t ps with
  | nil => exact absurd hlen (Nat.not_lt_zero _)
  | cons i is ih =>
    cases h with
    | cons hi hne he h =>
      cases ps with
      | nil =>
        refine ⟨s, rfl, fun hzero => hne ?_⟩
        rw [(seq_zero_iff_decodeU_wait _).1 hzero] at hi
        exact (Except.ok.inj hi).symm
      | cons p ps =>
        rw [runInputs_cons_of_step (step_withPorts (noReset_head hps) hi hne he)]
        exact ih (h.withPorts p) (noReset_tail hps) (Nat.lt_of_succ_lt_succ hlen)

theorem executed_of_decodeU {s : State} {i : Instr} {p : Ports} (hp : p.rst = 0#1) (hi : decodeU s.seq = .ok i)
    (hne : i ≠ .wait) : executed (s.withPorts p) = some i := by
  have hrst : (s.withPorts p).ports.rst ≠ 1#1 := by rw [State.withPorts_ports, hp]; decide
  have hbusy : s.seq ≠ 0x000#12 := fun hzero => hne (by
    rw [(seq_zero_iff_decodeU_wait _).1 hzero] at hi
    exact (Except.ok.inj hi).symm)
  have hfetch : fetch (s.withPorts p) = .ok i := fetch_of_decodeU (s := s.withPorts p) hi fun hc => hbusy hc.1
  simp only [executed, if_neg hrst, hfetch]

theorem Runs.trace_eq {is : List Instr} {s t : State} {ps : List Ports} (h : Runs is s t) (hps : NoReset ps)
    (hlen : ps.length = is.length) : trace ps s = is.map some := by
  induction is generalizing s t ps with
  | nil =>
    obtain rfl := List.length_eq_zero_iff.1 hlen
    rfl
  | cons i is ih =>
    obtain ⟨p, ps, rfl⟩ := List.exists_cons_of_length_pos (Nat.lt_of_lt_of_eq (Nat.succ_pos is.length) hlen.symm)
    cases h with
    | cons hi hne he h =>
      rw [trace_cons_of_step (step_withPorts (noReset_head hps) hi hne he), executed_of_decodeU (noReset_head hps) hi hne,
        ih (h.withPorts p) (noReset_tail hps) (Nat.succ.inj hlen), List.map_cons]

/-! A group of an indexed operation (R68, R132). -/

/-- The operation `op` at the indices `base` to `base + n - 1`. -/
def indexedOps (op : OpCode) (base n : Nat) : List Instr :=
  (List.range n).map fun j => instrOf op (BitVec.ofNat 7 (base + j))

theorem indexedOps_succ (op : OpCode) (base n : Nat) :
    indexedOps op base (n + 1) = indexedOps op base n ++ [instrOf op (BitVec.ofNat 7 (base + n))] := by
  rw [indexedOps, List.range_succ, List.map_append]
  rfl

theorem nextIndexed_ofNat (op : OpCode) {k last : Nat} (after : BitVec 12) (hk : k < 2 ^ 7) :
    nextIndexed op (BitVec.ofNat 7 k) last after =
      if k < last then controlWord op (BitVec.ofNat 7 (k + 1)) else after := by
  rw [nextIndexed, BitVec.toNat_ofNat, Nat.mod_eq_of_lt hk, BitVec.ofNat_add]
  rfl

/-- A property of the index and the state that each micro-operation of a group carries to the next index holds at the
end of the group, where `SEQ` names what follows it. -/
theorem runs_indexedOps {op : OpCode} {base n last : Nat} {after : BitVec 12} {Q : Nat → State → Prop}
    (hne : ∀ idx, instrOf op idx ≠ .wait) (hlast : last + 1 = base + n) (hmax : last < 2 ^ 7)
    (hlegal : ∀ j, j < n → op.legalIdx (BitVec.ofNat 7 (base + j)) = true)
    (hstep : ∀ j s, j < n → Q j s → ∃ t, exec (instrOf op (BitVec.ofNat 7 (base + j))) s = .next t ∧
      t.seq = nextIndexed op (BitVec.ofNat 7 (base + j)) last after ∧ Q (j + 1) t)
    (hn : 0 < n) {s : State} (hseq : s.seq = controlWord op (BitVec.ofNat 7 base)) (hQ : Q 0 s) :
    ∃ t, Runs (indexedOps op base n) s t ∧ t.seq = after ∧ Q n t := by
  have hpart (k : Nat) (hk : k ≤ n) : ∃ t, Runs (indexedOps op base k) s t ∧
      t.seq = (if k < n then controlWord op (BitVec.ofNat 7 (base + k)) else after) ∧ Q k t := by
    induction k with
    | zero => exact ⟨s, .nil s, by rw [hseq, if_pos hn, Nat.add_zero], hQ⟩
    | succ k ih =>
      obtain ⟨t, hruns, htseq, htQ⟩ := ih (Nat.le_of_succ_le hk)
      obtain ⟨u, he, huseq, huQ⟩ := hstep k t hk htQ
      rw [if_pos (Nat.lt_of_succ_le hk)] at htseq
      have hdec : decodeU t.seq = .ok (instrOf op (BitVec.ofNat 7 (base + k))) := by
        rw [htseq, decodeU_controlWord_of_legal (hlegal k hk)]
      refine ⟨u, ?_, ?_, huQ⟩
      · rw [indexedOps_succ]
        exact hruns.append (.single hdec (hne _) he)
      · have hiff : base + k < last ↔ k + 1 < n := by omega
        rw [huseq, nextIndexed_ofNat op after (by omega)]
        simp only [hiff, Nat.add_assoc]
  obtain ⟨t, hruns, hseq', hQ'⟩ := hpart n (Nat.le_refl n)
  exact ⟨t, hruns, by rw [hseq', if_neg (Nat.lt_irrefl n)], hQ'⟩

end Sys2Proof.Machine
end

section
/-! PROOFS. One block (R68, 43_compression.md section 3): the words of `Expand`, the rounds of `CF`, and the 200
micro-operations that compute them. -/

open Sys2Proof.Claims

namespace Sys2Proof.Machine

/-! `Expand` (R129) by its three recurrences. -/

/-- The 132 words of an expanded block, each from the block or from earlier words (R95, R96, R97). -/
structure IsExpansion (bs : List Byte) (x : List Word) : Prop where
  loaded : ∀ j, j < 16 → x.getD j 0 =
    be32 (bs.getD (4 * j) 0) (bs.getD (4 * j + 1) 0) (bs.getD (4 * j + 2) 0) (bs.getD (4 * j + 3) 0)
  generated : ∀ j, 16 ≤ j → j < 68 → x.getD j 0 =
    wgenWord (x.getD (j - 16) 0) (x.getD (j - 9) 0) (x.getD (j - 3) 0) (x.getD (j - 13) 0) (x.getD (j - 6) 0)
  primed : ∀ j, j < 64 → x.getD (68 + j) 0 = x.getD j 0 ^^^ x.getD (j + 4) 0

theorem refW_length (bs : List Byte) (n : Nat) : (refW bs n).length = n := by
  induction n with
  | zero => rfl
  | succ n ih => rw [refW, List.length_append, ih, List.length_singleton]

/-- The word that `refW` appends to the first `n`. -/
def refWNext (bs : List Byte) (n : Nat) : Word :=
  if n < 16 then be32 (bs.getD (4 * n) 0) (bs.getD (4 * n + 1) 0) (bs.getD (4 * n + 2) 0) (bs.getD (4 * n + 3) 0)
  else wgenWord ((refW bs n).getD (n - 16) 0) ((refW bs n).getD (n - 9) 0) ((refW bs n).getD (n - 3) 0)
    ((refW bs n).getD (n - 13) 0) ((refW bs n).getD (n - 6) 0)

theorem refW_succ (bs : List Byte) (n : Nat) : refW bs (n + 1) = refW bs n ++ [refWNext bs n] := rfl

/-- R98: later words do not change earlier ones. -/
theorem refW_getD_of_lt (bs : List Byte) {k n m : Nat} (hk : k < n) (hn : n ≤ m) :
    (refW bs m).getD k 0 = (refW bs n).getD k 0 := by
  induction m, hn using Nat.le_induction with
  | base => rfl
  | succ m hm ih => rw [refW_succ, List.getD_append _ _ _ _ (by rw [refW_length]; omega), ih]

theorem refW_getD_eq_refWNext (bs : List Byte) {n m : Nat} (hn : n < m) : (refW bs m).getD n 0 = refWNext bs n := by
  rw [refW_getD_of_lt bs (Nat.lt_succ_self n) hn, refW_succ,
    List.getD_append_right _ _ _ _ (by rw [refW_length]), refW_length, Nat.sub_self]
  rfl

theorem refExpand_getD_of_lt (bs : List Byte) {j : Nat} (hj : j < 68) :
    (refExpand bs).getD j 0 = (refW bs 68).getD j 0 :=
  List.getD_append _ _ _ _ (by rw [refW_length]; exact hj)

theorem refExpand_isExpansion (bs : List Byte) : IsExpansion bs (refExpand bs) where
  loaded j hj := by
    rw [refExpand_getD_of_lt bs (by omega), refW_getD_eq_refWNext bs (by omega), refWNext, if_pos hj]
  generated j hlo hhi := by
    have hword (k : Nat) (hk : k < j) : (refExpand bs).getD k 0 = (refW bs j).getD k 0 := by
      rw [refExpand_getD_of_lt bs (by omega), refW_getD_of_lt bs hk hhi.le]
    rw [refExpand_getD_of_lt bs hhi, refW_getD_eq_refWNext bs hhi, refWNext, if_neg (Nat.not_lt.2 hlo),
      hword (j - 16) (by omega), hword (j - 9) (by omega), hword (j - 3) (by omega), hword (j - 13) (by omega),
      hword (j - 6) (by omega)]
  primed j hj := by
    have hlen := refW_length bs 68
    rw [refExpand_getD_of_lt bs (by omega : j < 68), refExpand_getD_of_lt bs (by omega : j + 4 < 68), refExpand,
      List.getD_append_right _ _ _ _ (by rw [hlen]; omega), hlen, Nat.add_sub_cancel_left,
      List.getD_eq_getElem _ _ (by rw [List.length_map, List.length_range]; exact hj), List.getElem_map,
      List.getElem_range]

/-! What the micro-operations of a block leave as it is. -/

/-- What a block leaves as it is: the message, its padding, the latch, the result and the response. -/
structure BlockFrame (s t : State) : Prop where
  pm : t.pm = s.pm
  nblk : t.nblk = s.nblk
  len : t.len = s.len
  cmdop : t.cmdop = s.cmdop
  pres : t.pres = s.pres
  lreg : t.lreg = s.lreg
  msg : t.msg = s.msg
  dg : t.dg = s.dg
  hx : t.hx = s.hx
  rspValid : t.rspValid = s.rspValid
  rspStatus : t.rspStatus = s.rspStatus

theorem BlockFrame.refl (s : State) : BlockFrame s s := ⟨rfl, rfl, rfl, rfl, rfl, rfl, rfl, rfl, rfl, rfl, rfl⟩

theorem BlockFrame.trans {s t u : State} (h : BlockFrame s t) (h' : BlockFrame t u) : BlockFrame s u where
  pm := h'.pm.trans h.pm
  nblk := h'.nblk.trans h.nblk
  len := h'.len.trans h.len
  cmdop := h'.cmdop.trans h.cmdop
  pres := h'.pres.trans h.pres
  lreg := h'.lreg.trans h.lreg
  msg := h'.msg.trans h.msg
  dg := h'.dg.trans h.dg
  hx := h'.hx.trans h.hx
  rspValid := h'.rspValid.trans h.rspValid
  rspStatus := h'.rspStatus.trans h.rspStatus

/-! The expander's micro-operations (42_message_expander.md). -/

/-- The first `n` elements of `XW` are the first words of `x`. -/
def xwIs (s : State) (x : List Word) (n : Nat) : Prop := ∀ k : Fin 132, k.val < n → s.xwWord k = x.getD k 0

theorem xwIs_zero (s : State) (x : List Word) : xwIs s x 0 := fun _ hk => absurd hk (Nat.not_lt_zero _)

theorem State.withXw_xwWord_same (s : State) (d : Fin 132) (v : Word) : (s.withXw d v).xwWord d = v := by
  rw [State.xwWord, State.withXw_getElem_same, Slot.hold_value]

theorem State.withXw_xwWord_other (s : State) {d k : Fin 132} (v : Word) (h : k ≠ d) :
    (s.withXw d v).xwWord k = s.xwWord k := by
  rw [State.xwWord, State.withXw_getElem_other s v h, State.xwWord]

theorem xwIs_withXw {s : State} {x : List Word} {n : Nat} (h : xwIs s x n) {d : Fin 132} {v : Word} (hd : d.val = n)
    (hv : v = x.getD n 0) : xwIs (s.withXw d v) x (n + 1) := by
  intro k hk
  by_cases hkd : k = d
  · rw [hkd, State.withXw_xwWord_same, hv, hd]
  · rw [State.withXw_xwWord_other s v hkd]
    exact h k (by have := Fin.val_ne_of_ne hkd; omega)

/-- The second state is the first but for `XW`, `PHASE` and `SEQ`. -/
def Expanding (s t : State) : Prop := ∃ xw ph w, t = { s with xw := xw, phase := ph, seq := w }

theorem Expanding.refl (s : State) : Expanding s s := ⟨s.xw, s.phase, s.seq, rfl⟩

theorem Expanding.withXw {s t : State} (h : Expanding s t) (d : Fin 132) (v : Word) : Expanding s (t.withXw d v) := by
  obtain ⟨xw, ph, w, rfl⟩ := h
  exact ⟨_, _, _, rfl⟩

theorem Expanding.withPhase {s t : State} (h : Expanding s t) (p : Phase) : Expanding s (t.withPhase p) := by
  obtain ⟨xw, ph, w, rfl⟩ := h
  exact ⟨_, _, _, rfl⟩

theorem Expanding.withSeq {s t : State} (h : Expanding s t) (w : BitVec 12) : Expanding s (t.withSeq w) := by
  obtain ⟨xw, ph, w', rfl⟩ := h
  exact ⟨_, _, _, rfl⟩

theorem Expanding.blockFrame {s t : State} (h : Expanding s t) : BlockFrame s t := by
  obtain ⟨xw, ph, w, rfl⟩ := h
  exact ⟨rfl, rfl, rfl, rfl, rfl, rfl, rfl, rfl, rfl, rfl, rfl⟩

theorem Expanding.regWords {s t : State} (h : Expanding s t) : t.regWords = s.regWords := by
  obtain ⟨xw, ph, w, rfl⟩ := h
  rfl

theorem Expanding.blk {s t : State} (h : Expanding s t) : t.blk = s.blk := by
  obtain ⟨xw, ph, w, rfl⟩ := h
  rfl

theorem toNat_ofNat_seven {k : Nat} (hk : k < 128) : (BitVec.ofNat 7 k).toNat = k := by
  rw [BitVec.toNat_ofNat]
  exact Nat.mod_eq_of_lt hk

theorem legalIdx_ofNat_iff {op : OpCode} {k : Nat} (hk : k < 128) :
    op.legalIdx (BitVec.ofNat 7 k) = true ↔ op.idxRange.1 ≤ k ∧ k ≤ op.idxRange.2 := by
  rw [OpCode.legalIdx, toNat_ofNat_seven hk, Bool.and_eq_true, decide_eq_true_iff, decide_eq_true_iff]

theorem be32List_four (b0 b1 b2 b3 : Byte) : be32List [b0, b1, b2, b3] = be32 b0 b1 b2 b3 := rfl

/-- R95: `LDW j` continues the words of the block in `BLKBUF`. -/
theorem exec_ldw_word {s : State} {bs : List Byte} {x : List Word} {j : Nat} (hx : IsExpansion bs x)
    (hbuf : ∀ a, a < 64 → s.blkbuf.read a = some (bs.getD a 0)) (hj : j < 16) :
    exec (.ldw (BitVec.ofNat 7 j)) s = .next ((s.withXw ⟨j, by omega⟩ (x.getD j 0)).withSeq
      (nextIndexed .ldw (BitVec.ofNat 7 j) 15 (controlWord .wgen 16))) := by
  have hnat := toNat_ofNat_seven (by omega : j < 128)
  have haddr : ldwAddress (BitVec.ofNat 7 j) = 4 * j := by rw [ldwAddress, hnat]
  have hsize : 4 * j + 4 ≤ s.size .blkbuf := by rw [State.size]; omega
  have hread := memRead_four (s := s) (sp := .blkbuf) hsize (hbuf (4 * j) (by omega)) (hbuf (4 * j + 1) (by omega))
    (hbuf (4 * j + 2) (by omega)) (hbuf (4 * j + 3) (by omega))
  rw [exec_ldw_of_memRead (d := ⟨j, by omega⟩) (by omega) hnat.symm (haddr.symm ▸ hread), hx.loaded j hj, be32List_four,
    haddr]

/-- R96: `WGEN j` continues the words. -/
theorem exec_wgen_word {s : State} {bs : List Byte} {x : List Word} {j : Nat} (hx : IsExpansion bs x) (hlo : 16 ≤ j)
    (hhi : j < 68) (hs : xwIs s x j) :
    exec (.wgen (BitVec.ofNat 7 j)) s = .next ((s.withXw ⟨j, by omega⟩ (x.getD j 0)).withSeq
      (nextIndexed .wgen (BitVec.ofNat 7 j) 67 (controlWord .wpgen 0))) := by
  have hnat := toNat_ofNat_seven (by omega : j < 128)
  have hword (k : Nat) (hk : k < j) : s.xwWord ⟨k, by omega⟩ = x.getD k 0 := hs ⟨k, by omega⟩ hk
  rw [exec_wgen_of_le (d := ⟨j, by omega⟩) (k16 := ⟨j - 16, by omega⟩) (k9 := ⟨j - 9, by omega⟩)
    (k3 := ⟨j - 3, by omega⟩) (k13 := ⟨j - 13, by omega⟩) (k6 := ⟨j - 6, by omega⟩) (by omega) (by omega) hnat.symm
    (by rw [hnat]; exact Nat.sub_add_cancel hlo) (by rw [hnat]; exact Nat.sub_add_cancel (by omega))
    (by rw [hnat]; exact Nat.sub_add_cancel (by omega)) (by rw [hnat]; exact Nat.sub_add_cancel (by omega))
    (by rw [hnat]; exact Nat.sub_add_cancel (by omega)), hx.generated j hlo hhi, hword (j - 16) (by omega),
    hword (j - 9) (by omega), hword (j - 3) (by omega), hword (j - 13) (by omega), hword (j - 6) (by omega)]

/-- R97: `WPGEN j` continues the words. -/
theorem exec_wpgen_word {s : State} {bs : List Byte} {x : List Word} {j : Nat} (hx : IsExpansion bs x) (hj : j < 64)
    (hs : xwIs s x (68 + j)) :
    exec (.wpgen (BitVec.ofNat 7 j)) s = .next (((s.withXw ⟨68 + j, by omega⟩ (x.getD (68 + j) 0)).withPhase
      (if j = 63 then .expanded else s.phase)).withSeq
      (nextIndexed .wpgen (BitVec.ofNat 7 j) 63 (controlWord .save 0))) := by
  have hnat := toNat_ofNat_seven (by omega : j < 128)
  have hword (k : Nat) (hk : k < 68) : s.xwWord ⟨k, by omega⟩ = x.getD k 0 := hs ⟨k, by omega⟩ (by omega : k < 68 + j)
  rw [exec_wpgen_of_le (d := ⟨68 + j, by omega⟩) (k := ⟨j, by omega⟩) (k4 := ⟨j + 4, by omega⟩) (by omega)
    (by rw [hnat]) hnat.symm (by rw [hnat]), hx.primed j hj, hword j (by omega), hword (j + 4) (by omega), hnat]

theorem expandOps_eq : expandOps = indexedOps .ldw 0 16 ++ indexedOps .wgen 16 52 ++ indexedOps .wpgen 0 64 := by
  simp only [expandOps, indexedOps, instrOf, Nat.zero_add]

/-- `EXPAND` (R68): from a block in `BLKBUF` its 132 words in `XW`. -/
theorem runs_expandOps {s : State} {bs : List Byte} {x : List Word} (hx : IsExpansion bs x) (hseq : s.seq = 0x500#12)
    (hbuf : ∀ a, a < 64 → s.blkbuf.read a = some (bs.getD a 0)) :
    ∃ t, Runs expandOps s t ∧ t.seq = 0x800#12 ∧ t.phase = .expanded ∧ Expanding s t ∧ xwIs t x 132 := by
  obtain ⟨t1, hruns1, hseq1, hfr1, hxw1⟩ := runs_indexedOps (op := .ldw) (base := 0) (n := 16) (last := 15)
    (after := controlWord .wgen 16) (Q := fun j t => Expanding s t ∧ xwIs t x j) nofun rfl (by decide)
    (fun j hj => (legalIdx_ofNat_iff (by omega)).2 ⟨Nat.zero_le _, by simp only [OpCode.idxRange]; omega⟩)
    (fun j t hj ⟨hfr, hxw⟩ => by
      have hbuf' : ∀ a, a < 64 → t.blkbuf.read a = some (bs.getD a 0) := by
        obtain ⟨_, _, _, rfl⟩ := hfr
        exact hbuf
      rw [Nat.zero_add]
      exact ⟨_, exec_ldw_word hx hbuf' hj, rfl, (hfr.withXw _ _).withSeq _, xwIs_withXw hxw rfl rfl⟩)
    (by decide) hseq ⟨.refl s, xwIs_zero s x⟩
  obtain ⟨t2, hruns2, hseq2, hfr2, hxw2⟩ := runs_indexedOps (op := .wgen) (base := 16) (n := 52) (last := 67)
    (after := controlWord .wpgen 0) (Q := fun j t => Expanding s t ∧ xwIs t x (16 + j)) nofun rfl (by decide)
    (fun j hj => (legalIdx_ofNat_iff (by omega)).2 ⟨Nat.le_add_right _ _, by simp only [OpCode.idxRange]; omega⟩)
    (fun j t hj ⟨hfr, hxw⟩ =>
      ⟨_, exec_wgen_word hx (Nat.le_add_right _ _) (by omega) hxw, rfl, (hfr.withXw _ _).withSeq _,
        xwIs_withXw hxw rfl rfl⟩)
    (by decide) hseq1 ⟨hfr1, hxw1⟩
  obtain ⟨t3, hruns3, hseq3, hfr3, hxw3, hphase⟩ := runs_indexedOps (op := .wpgen) (base := 0) (n := 64) (last := 63)
    (after := controlWord .save 0)
    (Q := fun j t => Expanding s t ∧ xwIs t x (68 + j) ∧ (j = 64 → t.phase = .expanded)) nofun rfl (by decide)
    (fun j hj => (legalIdx_ofNat_iff (by omega)).2 ⟨Nat.zero_le _, by simp only [OpCode.idxRange]; omega⟩)
    (fun j t hj ⟨hfr, hxw, _⟩ => by
      rw [Nat.zero_add]
      refine ⟨_, exec_wpgen_word hx hj hxw, rfl, ((hfr.withXw _ _).withPhase _).withSeq _, xwIs_withXw hxw rfl rfl,
        fun hlast => ?_⟩
      rw [State.withSeq_phase, State.withPhase_phase, if_pos (Nat.succ.inj hlast)])
    (by decide) hseq2 ⟨hfr2, hxw2, fun h => absurd h (by decide)⟩
  refine ⟨t3, ?_, hseq3, hphase rfl, hfr3, hxw3⟩
  rw [expandOps_eq]
  exact (hruns1.append hruns2).append hruns3

/-! The rounds and the feed-forward (43_compression.md). -/

/-- The second state is the first but for `A..H`, `SAVE`, `PHASE` and `SEQ`. -/
def Compressing (s t : State) : Prop :=
  ∃ regs saved ph w, t = { s with regs := regs, saved := saved, phase := ph, seq := w }

theorem Compressing.withRegs {s t : State} (h : Compressing s t) (v : Octet Word) : Compressing s (t.withRegs v) := by
  obtain ⟨regs, saved, ph, w, rfl⟩ := h
  exact ⟨_, _, _, _, rfl⟩

theorem Compressing.withSeq {s t : State} (h : Compressing s t) (w : BitVec 12) : Compressing s (t.withSeq w) := by
  obtain ⟨regs, saved, ph, w', rfl⟩ := h
  exact ⟨_, _, _, _, rfl⟩

theorem Compressing.withPhase {s t : State} (h : Compressing s t) (p : Phase) : Compressing s (t.withPhase p) := by
  obtain ⟨regs, saved, ph, w, rfl⟩ := h
  exact ⟨_, _, _, _, rfl⟩

theorem Compressing.xwIs {s t : State} (h : Compressing s t) {x : List Word} {n : Nat} (hx : xwIs s x n) :
    xwIs t x n := by
  obtain ⟨regs, saved, ph, w, rfl⟩ := h
  exact hx

theorem Compressing.blockFrame {s t : State} (h : Compressing s t) : BlockFrame s t := by
  obtain ⟨regs, saved, ph, w, rfl⟩ := h
  exact ⟨rfl, rfl, rfl, rfl, rfl, rfl, rfl, rfl, rfl, rfl, rfl⟩

theorem Compressing.blk {s t : State} (h : Compressing s t) : t.blk = s.blk := by
  obtain ⟨regs, saved, ph, w, rfl⟩ := h
  rfl

/-- R105: `ROUND j` takes the registers one round further. -/
theorem exec_round_word {s : State} {x : List Word} {j : Nat} (hj : j < 64) (hs : xwIs s x 132) :
    exec (.round (BitVec.ofNat 7 j)) s =
      .next ((s.withRegs (roundRegs s.regWords j (x.getD j 0) (x.getD (68 + j) 0))).withSeq
        (nextIndexed .round (BitVec.ofNat 7 j) 63 (controlWord .ffwd 0))) := by
  have hnat := toNat_ofNat_seven (by omega : j < 128)
  have hword (k : Nat) (hk : k < 132) : s.xwWord ⟨k, hk⟩ = x.getD k 0 := hs ⟨k, hk⟩ hk
  rw [exec_round_of_le (k := ⟨j, by omega⟩) (k' := ⟨68 + j, by omega⟩) (by omega) hnat.symm (by rw [hnat]),
    hword, hword, hnat]

theorem compressOps_eq : compressOps = [.save] ++ indexedOps .round 0 64 ++ [.ffwd] := by
  simp only [compressOps, indexedOps, instrOf, Nat.zero_add, List.singleton_append]

/-- `COMPRESS` (R68): from the 132 words in `XW`, `CF` of the registers and the words. -/
theorem runs_compressOps {s : State} {x : List Word} (hseq : s.seq = 0x800#12) (hxw : xwIs s x 132) :
    ∃ t, Runs compressOps s t ∧ t.seq = 0xB00#12 ∧ t.phase = .compressed ∧ t.regWords = refCf s.regWords x ∧
      t.savedWords = s.regWords ∧ Compressing s t := by
  have hdec : decodeU s.seq = .ok .save := by rw [hseq]; rfl
  have hfr0 : Compressing s ((s.withSaved s.regWords).withSeq 0x900#12) := ⟨_, _, _, _, rfl⟩
  obtain ⟨t, hruns, htseq, hfr, hregs, hsaved⟩ := runs_indexedOps (op := .round) (base := 0) (n := 64) (last := 63)
    (after := controlWord .ffwd 0)
    (Q := fun j t => Compressing s t ∧ t.regWords = refRounds x s.regWords j ∧ t.savedWords = s.regWords) nofun rfl
    (by decide)
    (fun j hj => (legalIdx_ofNat_iff (by omega)).2 ⟨Nat.zero_le _, by simp only [OpCode.idxRange]; omega⟩)
    (fun j t hj ⟨hfr, hregs, hsaved⟩ => by
      rw [Nat.zero_add]
      refine ⟨_, exec_round_word hj (hfr.xwIs hxw), rfl, (hfr.withRegs _).withSeq _, ?_, hsaved⟩
      rw [State.withSeq_regWords, State.withRegs_regWords, hregs, refRounds])
    (by decide) (s := (s.withSaved s.regWords).withSeq 0x900#12) rfl ⟨hfr0, rfl, rfl⟩
  have hdec' : decodeU t.seq = .ok .ffwd := by rw [htseq]; rfl
  refine ⟨((t.withRegs (feedForward t.regWords t.savedWords)).withPhase .compressed).withSeq 0xB00#12, ?_, rfl, rfl, ?_,
    hsaved, ((hfr.withRegs _).withPhase _).withSeq _⟩
  · rw [compressOps_eq]
    exact ((Runs.single (i := .save) hdec nofun (exec_save s)).append hruns).append (.single (i := .ffwd) hdec' nofun (exec_ffwd t))
  · rw [State.withSeq_regWords, State.withPhase_regWords, State.withRegs_regWords, hregs, hsaved, refCf]

/-! `BLOCK` (R68). -/

theorem blockOps_eq : blockOps = [.ldblk] ++ expandOps ++ compressOps ++ [.nxtb] := rfl

/-- R108: a pass of the loop chains the registers by `CF` of the block `BLK` counts. -/
theorem runs_blockOps {s : State} {bs : List Byte} (hseq : s.seq = 0x400#12) (hblk : s.blk.value.toNat + 1 < 2 ^ 56)
    (hbs : memRead s .pm (64 * s.blk.value.toNat) 64 = .ok bs) :
    ∃ t, Runs blockOps s t ∧ t.regWords = refCf s.regWords (refExpand bs) ∧ t.savedWords = s.regWords ∧
      t.blk.value.toNat = s.blk.value.toNat + 1 ∧
      t.seq = (if s.blk.value.toNat + 1 = s.nblk.value.toNat then 0xC00#12 else 0x400#12) ∧ t.phase = .compressed ∧
      BlockFrame s t := by
  have hdec : decodeU s.seq = .ok .ldblk := by rw [hseq]; rfl
  obtain ⟨-, hlen, -⟩ := memRead_eq_ok.1 hbs
  have hbuf : ∀ a, a < 64 → (s.blkbuf.writeBytes 0 bs).read a = some (bs.getD a 0) := fun a ha => by
    apply Memory.read_writeBytes_zero_of_getElem?
    rw [List.getD_eq_getElem?_getD, List.getElem?_eq_getElem (by omega : a < bs.length)]
    rfl
  have hfr0 : BlockFrame s { s with blkbuf := s.blkbuf.writeBytes 0 bs, seq := 0x500#12 } :=
    ⟨rfl, rfl, rfl, rfl, rfl, rfl, rfl, rfl, rfl, rfl, rfl⟩
  obtain ⟨t1, hruns1, hseq1, -, hexp, hxw1⟩ := runs_expandOps
    (s := { s with blkbuf := s.blkbuf.writeBytes 0 bs, seq := 0x500#12 }) (refExpand_isExpansion bs) rfl hbuf
  obtain ⟨t2, hruns2, hseq2, hphase2, hregs2, hsaved2, hcomp⟩ := runs_compressOps hseq1 hxw1
  have hregs : t1.regWords = s.regWords := hexp.regWords
  have hblk2 : t2.blk = s.blk := hcomp.blk.trans hexp.blk
  have hfr : BlockFrame s t2 := (hfr0.trans hexp.blockFrame).trans hcomp.blockFrame
  have hdec2 : decodeU t2.seq = .ok .nxtb := by rw [hseq2]; rfl
  rw [hregs] at hregs2 hsaved2
  refine ⟨(t2.withBlk (nextBlk t2.blk.value)).withSeq
      (if t2.blk.value.toNat + 1 = t2.nblk.value.toNat then 0xC00#12 else 0x400#12), ?_, hregs2, hsaved2, ?_, ?_, hphase2,
    hfr.trans ⟨rfl, rfl, rfl, rfl, rfl, rfl, rfl, rfl, rfl, rfl, rfl⟩⟩
  · rw [blockOps_eq]
    exact (((Runs.single (i := .ldblk) hdec nofun (exec_ldblk_of_memRead hbs)).append hruns1).append hruns2).append
      (.single (i := .nxtb) hdec2 nofun (exec_nxtb t2))
  · rw [State.withSeq_blk, State.withBlk_blk, Slot.hold_value, hblk2, toNat_nextBlk hblk]
  · rw [State.withSeq_seq, hblk2, hfr.nblk]

theorem blockOps_length : blockOps.length = 200 := by
  simp [blockOps, expandOps, compressOps]

/-- Settles O53: the run of `BLOCK`, whose instructions are as many as the steps. -/
theorem oneBlockChainsTheState : Obligations.OneBlockChainsTheState := by
  intro s ps bs hlen hps hseq hblk hbs
  obtain ⟨t, hruns, hregs, hsaved, htblk, htseq, hphase, hfr⟩ := runs_blockOps hseq hblk hbs
  obtain ⟨p, hp⟩ := hruns.runInputs_eq_next hps (hlen.trans blockOps_length.symm)
  exact ⟨t.withPorts p, hp, hregs, hsaved, htblk, htseq, hphase, hfr.pm, hfr.nblk, hfr.len, hfr.cmdop, hfr.pres,
    hfr.lreg, hfr.msg, hfr.dg, hfr.hx, hfr.rspValid, hfr.rspStatus⟩

end Sys2Proof.Machine
end

section
/-! PROOFS. A whole run (45_sequencer_and_host.md): from the acceptance of a command to its response (R129 to R131,
R133, R134, R136). -/

open Sys2Proof.Claims

namespace Sys2Proof.Machine

/-! The blocks of a message (R108). -/

/-- R42, R81: block `k` of `PM` once the message is padded. -/
theorem memRead_block {s : State} {m : List Byte} {k : Nat} (hpm : s.pm = Memory.writeBytes [] 0 (paddedBytes m))
    (hn : s.nblk.value.toNat = blockCount m.length) (hk : k < blockCount m.length) :
    memRead s .pm (64 * k) 64 = .ok (refBlock m k) := by
  refine memRead_eq_ok.2 ⟨?_, by rw [refBlock, List.length_map, List.length_range], fun t ht => ?_⟩
  · rw [State.size, hn]
    omega
  · rw [State.space, hpm, read_writeBytes_paddedBytes m (by omega), refBlock, List.getElem?_map, List.getElem?_range ht]
    rfl

/-- `r` blocks more, from block `k` on: the registers go from `V(k)` to `V(k + r)`. -/
theorem runs_blocksOps {m : List Byte} (hm : m.length < 2 ^ 61) {s : State} {k r : Nat}
    (hpm : s.pm = Memory.writeBytes [] 0 (paddedBytes m)) (hn : s.nblk.value.toNat = blockCount m.length)
    (hblk : s.blk.value.toNat = k) (hkr : k + r = blockCount m.length)
    (hseq : s.seq = if r = 0 then 0xC00#12 else 0x400#12) (hregs : s.regWords = refChain Config.used.iv m k) :
    ∃ t, Runs (blocksOps r) s t ∧ t.seq = 0xC00#12 ∧ t.regWords = refChain Config.used.iv m (k + r) ∧ BlockFrame s t := by
  induction r generalizing s k with
  | zero => exact ⟨s, .nil s, hseq, hregs, .refl s⟩
  | succ r ih =>
    have hfit := blockCount_le hm
    have hread := memRead_block (k := k) hpm hn (by omega)
    obtain ⟨t, hruns, htregs, -, htblk, htseq, -, hfr⟩ := runs_blockOps (bs := refBlock m k)
      (by rw [hseq, if_neg (Nat.succ_ne_zero r)]) (by rw [hblk]; omega) (by rw [hblk]; exact hread)
    have hiff : s.blk.value.toNat + 1 = s.nblk.value.toNat ↔ r = 0 := by omega
    simp only [hiff] at htseq
    rw [hregs] at htregs
    obtain ⟨u, hruns', huseq, huregs, hfr'⟩ := ih (s := t) (k := k + 1) (by rw [hfr.pm, hpm]) (by rw [hfr.nblk, hn])
      (by rw [htblk, hblk]) (by omega) htseq htregs
    refine ⟨u, hruns.append hruns', huseq, ?_, hfr.trans hfr'⟩
    rw [huregs, Nat.add_right_comm]
    rfl

theorem blocksOps_length (n : Nat) : (blocksOps n).length = 200 * n := by
  induction n with
  | zero => rfl
  | succ n ih => rw [blocksOps, List.length_append, blockOps_length, ih]; omega

/-! Before the blocks, and after them. -/

/-- What a run leaves as it is before its result. -/
structure CommandFrame (s t : State) : Prop where
  cmdop : t.cmdop = s.cmdop
  msg : t.msg = s.msg
  dg : t.dg = s.dg
  hx : t.hx = s.hx

theorem CommandFrame.trans {s t u : State} (h : CommandFrame s t) (h' : CommandFrame t u) : CommandFrame s u :=
  ⟨h'.cmdop.trans h.cmdop, h'.msg.trans h.msg, h'.dg.trans h.dg, h'.hx.trans h.hx⟩

theorem BlockFrame.commandFrame {s t : State} (h : BlockFrame s t) : CommandFrame s t := ⟨h.cmdop, h.msg, h.dg, h.hx⟩

theorem decodeU_pad : decodeU 0x200#12 = .ok .pad := rfl

theorem decodeU_init : decodeU 0x300#12 = .ok .init := rfl

theorem decodeU_hex : decodeU 0xD00#12 = .ok .hex := rfl

theorem decodeU_done : decodeU 0xE00#12 = .ok .done := rfl

/-- `CHK`, `PAD`, `INIT` on a message that stands in `MSG`. -/
theorem runs_prepare {s : State} {m : List Byte} (hseq : s.seq = 0x100#12) (hp : s.pres.value = 1#1)
    (hm : memRead s .msg 0 s.lreg.value.toNat = .ok m) :
    ∃ t, Runs [.chk, .pad, .init] s t ∧ t.seq = 0x400#12 ∧ t.regWords = refChain Config.used.iv m 0 ∧
      t.blk.value.toNat = 0 ∧ t.nblk.value.toNat = blockCount m.length ∧
      t.pm = Memory.writeBytes [] 0 (paddedBytes m) ∧ CommandFrame s t := by
  have hlen := length_lt_of_memRead_msg hm
  obtain ⟨-, hlreg, -⟩ := memRead_eq_ok.1 hm
  have hchk := exec_chk_of_valid hp (by rw [← hlreg, lmax_used]; exact hlen)
  have hpad := exec_pad_of_memRead (s := { s with seq := 0x200#12 }) hm
  exact ⟨_, .cons (by rw [hseq]; rfl) nofun hchk (.cons decodeU_pad nofun hpad (.single decodeU_init nofun (exec_init _))), rfl, rfl, rfl,
    toNat_blockCount hlen, rfl, ⟨rfl, rfl, rfl, rfl⟩⟩

/-- What follows the blocks (R68): the digest, its hexadecimal view after `COMPUTE_HEX`, the response. -/
def resultOps (op : BitVec 1) : List Instr := if op = 1#1 then [.digest, .hex, .done] else [.digest, .done]

theorem runs_resultOps {s : State} (hseq : s.seq = 0xC00#12) :
    ∃ t, Runs (resultOps s.cmdop.value) s t ∧ t.seq = 0x000#12 ∧ t.rspValid = 1#1 ∧ t.rspStatus = .ok ∧
      t.phase = .finalized ∧ t.cmdop = s.cmdop ∧ t.msg = s.msg ∧ t.dg = s.dg.writeBytes 0 (digestBytes s.regWords) ∧
      t.hx = (if s.cmdop.value = 1#1 then s.hx.writeBytes 0 (hexBytes s.regWords) else s.hx) := by
  have hdec : decodeU s.seq = .ok .digest := by rw [hseq]; rfl
  have hdigest := exec_digest s
  generalize digestBytes s.regWords = db at hdigest ⊢
  by_cases hop : s.cmdop.value = 1#1
  · rw [if_pos hop] at hdigest ⊢
    have hhex := exec_hex (((s.withDg (s.dg.writeBytes 0 db)).withPhase .finalized).withSeq 0xD00#12)
    rw [State.withSeq_regWords, State.withPhase_regWords, State.withDg_regWords] at hhex
    generalize hexBytes s.regWords = hb at hhex ⊢
    have hruns := Runs.cons hdec nofun hdigest (.cons decodeU_hex nofun hhex (.single decodeU_done nofun (exec_done _)))
    rw [resultOps, if_pos hop]
    exact ⟨_, hruns, by simp, by simp, by simp, by simp, by simp, by simp, by simp, by simp⟩
  · rw [if_neg hop] at hdigest ⊢
    have hruns := Runs.cons hdec nofun hdigest (.single decodeU_done nofun (exec_done _))
    rw [resultOps, if_neg hop]
    exact ⟨_, hruns, by simp, by simp, by simp, by simp, by simp, by simp, by simp, by simp⟩

/-! The run. -/

/-- The microprogram of a command on a message of `n` blocks: `HASH`, or `HASHX` for `COMPUTE_HEX` (R68, R131). -/
def commandOps (op : BitVec 1) (n : Nat) : List Instr := [.chk, .pad, .init] ++ blocksOps n ++ resultOps op

theorem commandOps_zero (n : Nat) : commandOps 0 n = hashOps n := rfl

theorem commandOps_one (n : Nat) : commandOps 1 n = hashxOps n := rfl

theorem commandOps_length (op : BitVec 1) (n : Nat) : (commandOps op n).length = 5 + 200 * n + op.toNat := by
  have hresult : (resultOps op).length = 2 + op.toNat := by
    obtain rfl | rfl := BitVec.eq_zero_or_eq_one op <;> rfl
  rw [commandOps, List.length_append, List.length_append, blocksOps_length, hresult, List.length_cons, List.length_cons,
    List.length_singleton]
  omega

/-- R118: two characters for each byte of a register are the eight of the register. -/
theorem hexWord_eq_flatMap (w : Word) :
    hexWord w = (unbe32 w).flatMap fun b => [hexchar (b.extractLsb' 4 4), hexchar (b.extractLsb' 0 4)] := by
  simp [hexWord, unbe32, extractLsb'_extractLsb', List.range_succ]

theorem hexBytes_eq_flatMap (r : Octet Word) :
    hexBytes r = (digestBytes r).flatMap fun b => [hexchar (b.extractLsb' 4 4), hexchar (b.extractLsb' 0 4)] := by
  rw [hexBytes, digestBytes, List.flatMap_assoc]
  exact congrArg (fun f => (octetList r).flatMap f) (funext hexWord_eq_flatMap)

/-- The response of a command `op` on the message `m`: everything of it the host can see (R31, R134). -/
structure Responds (op : BitVec 1) (m : List Byte) (t : State) : Prop where
  seq : t.seq = 0x000#12
  rspValid : t.rspValid = 1#1
  rspStatus : t.rspStatus = .ok
  phase : t.phase = .finalized
  cmdop : t.cmdop.value = op
  dg : t.dg = Memory.writeBytes [] 0 (sm3 Config.used.iv m)
  hx : t.hx = if op = 1#1 then Memory.writeBytes [] 0 (sm3Hex Config.used.iv m) else []

theorem runs_commandOps {s : State} {m : List Byte} (hseq : s.seq = 0x100#12) (hp : s.pres.value = 1#1)
    (hm : memRead s .msg 0 s.lreg.value.toNat = .ok m) (hdg : s.dg = []) (hhx : s.hx = []) :
    ∃ t, Runs (commandOps s.cmdop.value (blockCount m.length)) s t ∧ Responds s.cmdop.value m t ∧ t.msg = s.msg := by
  obtain ⟨t1, hruns1, hseq1, hregs1, hblk1, hn1, hpm1, hfr1⟩ := runs_prepare hseq hp hm
  obtain ⟨t2, hruns2, hseq2, hregs2, hfr2⟩ := runs_blocksOps (length_lt_of_memRead_msg hm) (k := 0)
    (r := blockCount m.length) hpm1 hn1 hblk1 (Nat.zero_add _) (by rw [hseq1, if_neg (show blockCount m.length ≠ 0 from Nat.succ_ne_zero _)]) hregs1
  have hfr := hfr1.trans hfr2.commandFrame
  obtain ⟨t3, hruns3, hseq3, hvalid, hok, hphase, hcmdop, hmsg, hdg3, hhx3⟩ := runs_resultOps hseq2
  rw [Nat.zero_add] at hregs2
  rw [hfr.cmdop] at hruns3 hhx3
  refine ⟨t3, (hruns1.append hruns2).append hruns3,
    ⟨hseq3, hvalid, hok, hphase, by rw [hcmdop, hfr.cmdop], ?_, ?_⟩, by rw [hmsg, hfr.msg]⟩
  · rw [hdg3, hfr.dg, hdg, hregs2, sm3, refFinal]
  · rw [hhx3, hfr.hx, hhx, hregs2, hexBytes_eq_flatMap, sm3Hex, sm3, refFinal]

/-! The acceptance (R125). -/

/-- The state after the step that accepts a command. -/
def accepted (op p : BitVec 1) (l : BitVec 64) (s : State) : State := accept op p l (s.withPorts (presents op p l))

theorem accepted_seq (op p : BitVec 1) (l : BitVec 64) (s : State) : (accepted op p l s).seq = 0x100#12 := by
  simp only [accepted, accept, State.withSeq_seq, controlWord_values]

theorem accepted_phase (op p : BitVec 1) (l : BitVec 64) (s : State) : (accepted op p l s).phase = .idle := by
  simp [accepted, accept]

theorem accepted_latch (op p : BitVec 1) (l : BitVec 64) (s : State) :
    (accepted op p l s).cmdop.value = op ∧ (accepted op p l s).pres.value = p ∧ (accepted op p l s).lreg.value = l := by
  simp [accepted, accept]

theorem accepted_msg (op p : BitVec 1) (l : BitVec 64) (s : State) : (accepted op p l s).msg = s.msg := by
  simp [accepted, accept]

theorem accepted_results (op p : BitVec 1) (l : BitVec 64) (s : State) :
    (accepted op p l s).dg = [] ∧ (accepted op p l s).hx = [] ∧ (accepted op p l s).rspValid = 0#1 := by
  simp [accepted, accept]

theorem step_presents {s : State} (hs : s.seq = 0x000#12) (op p : BitVec 1) (l : BitVec 64) :
    step (s.withPorts (presents op p l)) = .next (accepted op p l s) := by
  have hrst : (s.withPorts (presents op p l)).ports.rst ≠ 1#1 :=
    (by decide : (0#1 : BitVec 1) ≠ 1#1)
  rw [step_of_decodeU (s := s.withPorts (presents op p l)) hrst ((seq_zero_iff_decodeU_wait _).1 hs)]
  have hvalid : (s.withPorts (presents op p l)).ports.cmdValid = 1#1 := rfl
  exact exec_wait_of_valid hvalid

theorem executed_presents {s : State} (hs : s.seq = 0x000#12) (op p : BitVec 1) (l : BitVec 64) :
    executed (s.withPorts (presents op p l)) = some (if op = 1#1 then .computeHex p l else .compute p l) := by
  have hrst : (s.withPorts (presents op p l)).ports.rst ≠ 1#1 :=
    (by decide : (0#1 : BitVec 1) ≠ 1#1)
  have hfetch := fetch_of_command (s := s.withPorts (presents op p l)) ⟨hs, rfl⟩
  rw [decodeHC_portWord] at hfetch
  simp only [executed, if_neg hrst, hfetch]
  rfl

theorem toNat_length {m : List Byte} (hm : m.length < 2 ^ 58) : (BitVec.ofNat 64 m.length).toNat = m.length := by
  rw [BitVec.toNat_ofNat, Nat.mod_eq_of_lt (by omega)]

/-- The message `PAD` will find. -/
theorem memRead_accepted {s : State} {m : List Byte} (hm : m.length < 2 ^ 58) (hmsg : MessageIs s m) (op : BitVec 1) :
    memRead (accepted op 1 (BitVec.ofNat 64 m.length) s) .msg 0 (BitVec.ofNat 64 m.length).toNat = .ok m := by
  rw [toNat_length hm]
  refine memRead_eq_ok.2 ⟨?_, rfl, fun t ht => ?_⟩
  · rw [State.size, lmax_used]
    omega
  · rw [State.space, accepted_msg, Nat.zero_add]
    exact hmsg t ht

/-- The run of a command on a message of a length both readings accept (C2; log 7). -/
theorem runs_accepted {s : State} {m : List Byte} (hm : m.length < 2 ^ 58) (hmsg : MessageIs s m) (op : BitVec 1) :
    ∃ t, Runs (commandOps op (blockCount m.length)) (accepted op 1 (BitVec.ofNat 64 m.length) s) t ∧ Responds op m t := by
  obtain ⟨hop, hp, hl⟩ := accepted_latch op 1 (BitVec.ofNat 64 m.length) s
  obtain ⟨hdg, hhx, -⟩ := accepted_results op 1 (BitVec.ofNat 64 m.length) s
  obtain ⟨t, hruns, hresp, -⟩ := runs_commandOps (accepted_seq op 1 (BitVec.ofNat 64 m.length) s) hp
    (hl.symm ▸ memRead_accepted hm hmsg op) hdg hhx
  rw [hop] at hruns hresp
  exact ⟨t, hruns, hresp⟩

/-! What the host sees of a response. -/

theorem memRead_of_writeBytes {s : State} {sp : Space} {bs : List Byte} {n : Nat}
    (h : s.space sp = Memory.writeBytes [] 0 bs) (hlen : bs.length = n) (hsize : s.size sp = n) :
    memRead s sp 0 n = .ok bs := by
  refine memRead_eq_ok.2 ⟨by omega, hlen, fun t ht => ?_⟩
  rw [h, Nat.zero_add, Memory.read_writeBytes, if_pos ⟨Nat.zero_le t, by omega⟩, Nat.sub_zero]

theorem sm3_length (iv : Octet Word) (m : List Byte) : (sm3 iv m).length = 32 := digestBytes_length _

theorem sm3Hex_length (iv : Octet Word) (m : List Byte) : (sm3Hex iv m).length = 64 := by
  rw [sm3Hex, sm3, ← hexBytes_eq_flatMap]
  exact hexBytes_length _

theorem Responds.memRead_dg {op : BitVec 1} {m : List Byte} {t : State} (h : Responds op m t) :
    memRead t .dg 0 32 = .ok (sm3 Config.used.iv m) :=
  memRead_of_writeBytes h.dg (sm3_length _ _) rfl

theorem Responds.memRead_hx {m : List Byte} {t : State} (h : Responds 1 m t) :
    memRead t .hx 0 64 = .ok (sm3Hex Config.used.iv m) :=
  memRead_of_writeBytes (h.hx.trans (if_pos rfl)) (sm3Hex_length _ _) rfl

theorem Responds.withPorts {op : BitVec 1} {m : List Byte} {t : State} (h : Responds op m t) (p : Ports) :
    Responds op m (t.withPorts p) :=
  ⟨h.seq, h.rspValid, h.rspStatus, h.phase, h.cmdop, h.dg, h.hx⟩

/-- Settles O54: the acceptance, then the run of `HASH` or `HASHX`, which is not over with fewer inputs. -/
theorem runComputesTheDigest : Obligations.RunComputesTheDigest := by
  intro s m op ps hs hm hmsg hps hlen
  obtain ⟨t, hruns, hresp⟩ := runs_accepted hm hmsg op
  have hlen' : ps.length = (commandOps op (blockCount m.length)).length := by rw [hlen, commandOps_length]
  refine ⟨?_, fun n hn => ?_⟩
  · obtain ⟨p, hp⟩ := hruns.runInputs_eq_next hps hlen'
    have hr := hresp.withPorts p
    refine ⟨t.withPorts p, (runInputs_cons_of_step (step_presents hs _ _ _) ps).trans hp, hr.seq, hr.rspValid,
      hr.rspStatus, hr.phase, hr.memRead_dg, digestPort_of_memRead hr.rspValid hr.rspStatus hr.memRead_dg, ?_, ?_⟩
    · rintro rfl
      exact ⟨hr.memRead_hx, hexPort_of_memRead hr.rspValid hr.rspStatus hr.cmdop hr.memRead_hx⟩
    · rintro rfl
      refine ⟨hexPort_of_no_result fun ⟨_, _, hone⟩ => absurd (hr.cmdop.symm.trans hone) (by decide), fun a => ?_⟩
      rw [hr.hx]
      exact Memory.read_nil a
  · rw [runInputs_cons_of_step (step_presents hs _ _ _)]
    refine hruns.runInputs_of_length_lt (noReset_take hps n) ?_
    rw [List.length_take]
    omega

/-- Settles O55: the command, then the instructions of the run. -/
theorem runFollowsTheMicroprogram : Obligations.RunFollowsTheMicroprogram := by
  intro s m ps l hs hm hl hmsg hps
  subst hl
  refine ⟨fun hlen => ?_, fun hlen => ?_⟩
  · obtain ⟨t, hruns, -⟩ := runs_accepted hm hmsg 0
    rw [trace_cons_of_step (step_presents hs _ _ _), executed_presents hs,
      hruns.trace_eq hps (by rw [hlen, commandOps_length]; rfl), commandOps_zero]
    rfl
  · obtain ⟨t, hruns, -⟩ := runs_accepted hm hmsg 1
    rw [trace_cons_of_step (step_presents hs _ _ _), executed_presents hs,
      hruns.trace_eq hps (by rw [hlen, commandOps_length, Nat.add_right_comm]; rfl), commandOps_one]
    rfl

end Sys2Proof.Machine
end

section
/-! PROOFS. What a run shows: the values of `PHASE` (R133), the errors of `CHK` (R141 to R144), and nothing of the past
(R137). -/

open Sys2Proof.Claims

namespace Sys2Proof.Machine

/-! `PHASE` along a run (R133). -/

/-- `PHASE` after a micro-operation other than `WAIT`. -/
def phaseAfter : Instr → Phase → Phase
  | .pad, _ => .padded
  | .wpgen j, p => if j.toNat = 63 then .expanded else p
  | .ffwd, _ => .compressed
  | .digest, _ => .finalized
  | .wait, p | .chk, p | .init, p | .ldblk, p | .ldw _, p | .wgen _, p | .save, p | .round _, p | .nxtb, p | .hex, p
  | .done, p | .compute _ _, p | .computeHex _ _, p => p

theorem Completes.phase_eq {i : Instr} {s t : State} (hc : Completes s i t) (hi : decodeU s.seq = .ok i)
    (hne : i ≠ .wait) : t.phase = phaseAfter i s.phase := by
  cases hc with
  | waitHold | waitAccept => exact absurd rfl hne
  | computeAccept | computeBusy => exact absurd rfl (ne_command_of_decodeU hi _ _).1
  | computeHexAccept | computeHexBusy => exact absurd rfl (ne_command_of_decodeU hi _ _).2
  | chkRaise => simp [raise, phaseAfter]
  | chkPass | pad | init | ldblk | ldw | wgen | wpgen | save | round | ffwd | nxtbLeave | nxtbLoop | digestHex | digestDone
  | hex | done => simp [phaseAfter]

/-- The values `PHASE` changes to, in order, along these micro-operations. -/
def phaseChanges : Phase → List Instr → List Phase
  | _, [] => []
  | p, i :: is =>
    if phaseAfter i p = p then phaseChanges p is else phaseAfter i p :: phaseChanges (phaseAfter i p) is

/-- These micro-operations take `PHASE` from `p` through the values `c` to `q`. -/
structure PhasePath (p : Phase) (is : List Instr) (c : List Phase) (q : Phase) : Prop where
  changes : phaseChanges p is = c
  last : is.foldl (fun r i => phaseAfter i r) p = q

theorem PhasePath.append {p q r : Phase} {is js : List Instr} {c d : List Phase} (h : PhasePath p is c q)
    (h' : PhasePath q js d r) : PhasePath p (is ++ js) (c ++ d) r := by
  obtain ⟨rfl, rfl⟩ := h
  obtain ⟨rfl, rfl⟩ := h'
  refine ⟨?_, List.foldl_append⟩
  induction is generalizing p with
  | nil => rfl
  | cons i is ih =>
    rw [List.cons_append, phaseChanges, phaseChanges, List.foldl_cons]
    split
    · next heq => rw [ih, heq]
    · rw [ih, List.cons_append]

/-- Repetitions dropped, the values of `PHASE` after the steps of a run are those it changes to. -/
theorem Runs.destutter_phases {is : List Instr} {s t : State} {ps : List Ports} (h : Runs is s t) (hps : NoReset ps)
    (hlen : ps.length = is.length) :
    (phases ps s).destutter' (· ≠ ·) s.phase = s.phase :: phaseChanges s.phase is := by
  induction is generalizing s t ps with
  | nil =>
    obtain rfl := List.length_eq_zero_iff.1 hlen
    rfl
  | cons i is ih =>
    obtain ⟨p, ps, rfl⟩ := List.exists_cons_of_length_pos (Nat.lt_of_lt_of_eq (Nat.succ_pos is.length) hlen.symm)
    cases h with
    | @cons _ _ _ u _ hi hne he h =>
      have hrest := ih (h.withPorts p) (noReset_tail hps) (Nat.succ.inj hlen)
      have hphase : (u.withPorts p).phase = phaseAfter i s.phase := (completes_of_exec he).phase_eq hi hne
      rw [phases_cons_of_step (step_withPorts (noReset_head hps) hi hne he), List.destutter'_cons, phaseChanges]
      rw [hphase] at hrest ⊢
      by_cases hsame : phaseAfter i s.phase = s.phase
      · rw [if_pos hsame, if_neg (not_not.2 hsame.symm)]
        rwa [hsame] at hrest
      · rw [if_neg hsame, if_pos (Ne.symm hsame), hrest]

/-- Micro-operations that keep a value of `PHASE`. -/
theorem phasePath_of_keep {p : Phase} {is : List Instr} (h : ∀ i ∈ is, phaseAfter i p = p) : PhasePath p is [] p := by
  induction is with
  | nil => exact ⟨rfl, rfl⟩
  | cons i is ih =>
    obtain ⟨hi, his⟩ := List.forall_mem_cons.1 h
    obtain ⟨hchanges, hlast⟩ := ih his
    exact ⟨by rw [phaseChanges, if_pos hi, hchanges], by rw [List.foldl_cons, hi, hlast]⟩

theorem phasePath_indexedOps {op : OpCode} {base n : Nat} {p : Phase}
    (h : ∀ j, j < n → phaseAfter (instrOf op (BitVec.ofNat 7 (base + j))) p = p) :
    PhasePath p (indexedOps op base n) [] p := by
  refine phasePath_of_keep fun i hi => ?_
  obtain ⟨j, hj, rfl⟩ := List.mem_map.1 hi
  exact h j (List.mem_range.1 hj)

/-- R97: only the last `WPGEN` changes `PHASE`. -/
theorem phasePath_expandOps {p : Phase} (hp : p ≠ .expanded) : PhasePath p expandOps [.expanded] .expanded := by
  have hprimed : PhasePath p (indexedOps .wpgen 0 63) [] p := phasePath_indexedOps fun j hj => if_neg (by
    rw [toNat_ofNat_seven (by omega)]
    omega)
  have hlast : PhasePath p [.wpgen 63] [.expanded] .expanded := ⟨if_neg hp.symm, rfl⟩
  rw [expandOps_eq]
  exact ((phasePath_indexedOps fun _ _ => rfl).append (phasePath_indexedOps fun _ _ => rfl)).append
    (hprimed.append hlast)

theorem phasePath_compressOps : PhasePath .expanded compressOps [.compressed] .compressed := by
  have hsave : PhasePath .expanded [.save] [] .expanded := ⟨rfl, rfl⟩
  have hffwd : PhasePath .expanded [.ffwd] [.compressed] .compressed := ⟨rfl, rfl⟩
  rw [compressOps_eq]
  exact (hsave.append (phasePath_indexedOps fun _ _ => rfl)).append hffwd

/-- R133: a block goes through `Expanded` to `Compressed`, from `Padded` or from the `Compressed` of the block before. -/
theorem phasePath_blockOps {p : Phase} (hp : p ≠ .expanded) :
    PhasePath p blockOps [.expanded, .compressed] .compressed := by
  have hload : PhasePath p [.ldblk] [] p := ⟨if_pos rfl, rfl⟩
  have hnxtb : PhasePath .compressed [.nxtb] [] .compressed := ⟨rfl, rfl⟩
  rw [blockOps_eq]
  exact ((hload.append (phasePath_expandOps hp)).append phasePath_compressOps).append hnxtb

theorem phasePath_blocksOps {p : Phase} (hp : p = .padded ∨ p = .compressed) (n : Nat) :
    ∃ q, PhasePath p (blocksOps n) (blockPhases n) q ∧ (q = .padded ∨ q = .compressed) := by
  induction n generalizing p with
  | zero => exact ⟨p, ⟨rfl, rfl⟩, hp⟩
  | succ n ih =>
    have hne : p ≠ .expanded := by rintro rfl; simp at hp
    obtain ⟨q, hpath, hq⟩ := ih (p := .compressed) (.inr rfl)
    exact ⟨q, (phasePath_blockOps hne).append hpath, hq⟩

theorem phasePath_resultOps {p : Phase} (hp : p = .padded ∨ p = .compressed) (op : BitVec 1) :
    PhasePath p (resultOps op) [.finalized] .finalized := by
  obtain rfl | rfl := hp <;> obtain rfl | rfl := BitVec.eq_zero_or_eq_one op <;> exact ⟨rfl, rfl⟩

theorem phaseChanges_commandOps (op : BitVec 1) (n : Nat) :
    phaseChanges .idle (commandOps op n) = [.padded] ++ blockPhases n ++ [.finalized] := by
  have hprepare : PhasePath .idle [.chk, .pad, .init] [.padded] .padded := ⟨rfl, rfl⟩
  obtain ⟨q, hblocks, hq⟩ := phasePath_blocksOps (p := .padded) (.inl rfl) n
  exact ((hprepare.append hblocks).append (phasePath_resultOps hq op)).changes

/-- Settles O56: the acceptance leaves `Idle`, and the run changes it as its micro-operations do. -/
theorem runGoesThroughThePhases : Obligations.RunGoesThroughThePhases := by
  intro s m op ps hs hm hmsg hps hlen
  obtain ⟨t, hruns, -⟩ := runs_accepted hm hmsg op
  have hphases := hruns.destutter_phases hps (by rw [hlen, commandOps_length])
  rw [accepted_phase, phaseChanges_commandOps] at hphases
  rw [phases_cons_of_step (step_presents hs _ _ _), accepted_phase, List.destutter_cons', hphases]
  rfl

/-! An erroneous command (R141 to R144). -/

theorem accepted_eq (op p : BitVec 1) (l : BitVec 64) (s : State) :
    accepted op p l s = { s with
      cmdop := ⟨op, true⟩, pres := ⟨p, true⟩, lreg := ⟨l, true⟩, rspValid := 0#1, phase := .idle, dg := [], hx := [],
      seq := 0x100#12, ports := presents op p l } := by
  rw [accepted, accept_eq]
  rfl

theorem checkInput_of_erroneous {p : BitVec 1} {l : BitVec 64} (h : p = 0#1 ∨ 2 ^ 61 ≤ l.toNat) :
    ∃ e, checkInput Config.used.lmax p l = some e ∧ e.status = if p = 0#1 then .nullInput else .inputTooLarge := by
  by_cases hp : p = 0#1
  · exact ⟨.nullInput, checkInput_of_absent _ _ hp, by rw [if_pos hp]; rfl⟩
  · have hone := (BitVec.eq_zero_or_eq_one p).resolve_left hp
    refine ⟨.inputTooLarge, checkInput_of_le hone ?_, by rw [if_neg hp]; rfl⟩
    rw [lmax_used]
    exact h.resolve_left hp

/-- Settles O57: the acceptance, then `CHK` raises its error. -/
theorem erroneousCommandEndsAfterChk : Obligations.ErroneousCommandEndsAfterChk := by
  intro s op p l q hs hq hbad
  obtain ⟨e, he, hstatus⟩ := checkInput_of_erroneous hbad
  have hdec : decodeU (accepted op p l s).seq = .ok .chk := by rw [accepted_seq]; rfl
  obtain ⟨-, hpres, hlreg⟩ := accepted_latch op p l s
  have hchk := exec_chk_of_error (s := accepted op p l s) (e := e) (by rw [hpres, hlreg]; exact he)
  refine ⟨{ s with
      cmdop := ⟨op, true⟩, pres := ⟨p, true⟩, lreg := ⟨l, true⟩, rspStatus := e.status, rspValid := 1#1,
      phase := .idle, dg := [], hx := [], seq := 0x000#12, ports := q }, ?_, hstatus, rfl⟩
  rw [runInputs_cons_of_step (step_presents hs _ _ _), runInputs_cons_of_step (step_withPorts hq hdec nofun hchk),
    accepted_eq]
  rfl

/-! Nothing of the past (R137). -/

/-- Two cores at `WAIT` with the same message memory and everything the host can see of a response. -/
structure SameView (s t : State) : Prop where
  seq : s.seq = 0x000#12
  seq' : t.seq = 0x000#12
  msg : s.msg = t.msg
  cmdop : s.cmdop.value = t.cmdop.value
  rspValid : s.rspValid = t.rspValid
  rspStatus : s.rspStatus = t.rspStatus
  phase : s.phase = t.phase
  dg : s.dg = t.dg
  hx : s.hx = t.hx

theorem SameView.withPorts {s t : State} (h : SameView s t) (p q : Ports) :
    SameView (s.withPorts p) (t.withPorts q) :=
  ⟨h.seq, h.seq', h.msg, h.cmdop, h.rspValid, h.rspStatus, h.phase, h.dg, h.hx⟩

theorem sameView_of_responds {op : BitVec 1} {m : List Byte} {s t : State} (h : Responds op m s) (h' : Responds op m t)
    (hmsg : s.msg = t.msg) : SameView s t :=
  ⟨h.seq, h'.seq, hmsg, h.cmdop.trans h'.cmdop.symm, h.rspValid.trans h'.rspValid.symm,
    h.rspStatus.trans h'.rspStatus.symm, h.phase.trans h'.phase.symm, h.dg.trans h'.dg.symm, h.hx.trans h'.hx.symm⟩

theorem memRead_congr {s t : State} {sp : Space} (hspace : t.space sp = s.space sp) (hsize : t.size sp = s.size sp)
    (a n : Nat) : memRead t sp a n = memRead s sp a n := by
  rw [memRead, memRead, hspace, hsize]

theorem SameView.memRead_dg {s t : State} (h : SameView s t) : memRead t .dg 0 32 = memRead s .dg 0 32 :=
  memRead_congr (s := s) (t := t) (sp := .dg) h.dg.symm rfl 0 32

theorem SameView.memRead_hx {s t : State} (h : SameView s t) : memRead t .hx 0 64 = memRead s .hx 0 64 :=
  memRead_congr (s := s) (t := t) (sp := .hx) h.hx.symm rfl 0 64

theorem SameView.ports_eq {s t : State} (h : SameView s t) : digestPort t = digestPort s ∧ hexPort t = hexPort s := by
  constructor
  · simp only [digestPort, h.memRead_dg, h.rspValid, h.rspStatus]
  · simp only [hexPort, h.memRead_hx, h.rspValid, h.rspStatus, h.cmdop]

/-- An error of `CHK` shows the same, whatever the core held before. -/
theorem sameView_raise {s t : State} (hmsg : s.msg = t.msg) (op p : BitVec 1) (l : BitVec 64) (e : HashError) :
    SameView (raise e (accepted op p l s)) (raise e (accepted op p l t)) := by
  have hword : controlWord .wait 0#7 = 0x000#12 := controlWord_values.1
  constructor <;> simp [raise, accepted, accept, hmsg, hword]

theorem decodeU_accepted (op p : BitVec 1) (l : BitVec 64) (s : State) :
    decodeU (accepted op p l s).seq = .ok .chk := by
  rw [accepted_seq]
  rfl

/-- Once `PAD` is next and stops, no inputs lead back to `WAIT`. -/
theorem seq_ne_zero_of_pad_fault {s t : State} {f : Fault} {ps : List Ports} (hps : NoReset ps) (hseq : s.seq = 0x200#12)
    (hm : memRead s .msg 0 s.lreg.value.toNat = .error f) (hrun : runInputs ps s = .next t) : t.seq ≠ 0x000#12 := by
  cases ps with
  | nil =>
    cases hrun
    rw [hseq]
    decide
  | cons p ps =>
    have hrst : (s.withPorts p).ports.rst ≠ 1#1 := by rw [State.withPorts_ports, noReset_head hps]; decide
    have hstep : step (s.withPorts p) = .fault f := by
      rw [step_of_decodeU (s := s.withPorts p) (i := .pad) hrst (by rw [State.withPorts_seq, hseq]; rfl)]
      exact exec_pad_of_memRead_error ((memRead_withPorts s p .msg 0 _).trans hm)
    rw [runInputs_cons_of_fault hstep] at hrun
    cases hrun

/-- From the acceptance of a command two cores with the same `MSG` run alike to the same view, or the message is not
there, and no inputs lead back to `WAIT`. -/
theorem accepted_cases {s1 s2 : State} (hmsg : s1.msg = s2.msg) (op p : BitVec 1) (l : BitVec 64) :
    (∃ is v1 v2, Runs is (accepted op p l s1) v1 ∧ Runs is (accepted op p l s2) v2 ∧ SameView v1 v2) ∨
      ∀ ps t, NoReset ps → runInputs ps (accepted op p l s1) = .next t → t.seq ≠ 0x000#12 := by
  have hdec1 := decodeU_accepted op p l s1
  have hdec2 := decodeU_accepted op p l s2
  obtain ⟨hop1, hp1, hl1⟩ := accepted_latch op p l s1
  obtain ⟨hop2, hp2, hl2⟩ := accepted_latch op p l s2
  cases hcheck : checkInput Config.used.lmax p l with
  | some e =>
    refine .inl ⟨[.chk], _, _, .single hdec1 nofun ?_, .single hdec2 nofun ?_, sameView_raise hmsg op p l e⟩
    · exact exec_chk_of_error (by rw [hp1, hl1]; exact hcheck)
    · exact exec_chk_of_error (by rw [hp2, hl2]; exact hcheck)
  | none =>
    obtain ⟨hp, hlt⟩ := checkInput_eq_none_iff.1 hcheck
    have hread : memRead (accepted op p l s2) .msg 0 l.toNat = memRead (accepted op p l s1) .msg 0 l.toNat :=
      memRead_congr (s := accepted op p l s1) (t := accepted op p l s2) (sp := .msg)
        (by simp only [State.space, accepted_msg, hmsg]) rfl 0 _
    cases hm : memRead (accepted op p l s1) .msg 0 l.toNat with
    | ok m =>
      obtain ⟨hdg1, hhx1, -⟩ := accepted_results op p l s1
      obtain ⟨hdg2, hhx2, -⟩ := accepted_results op p l s2
      obtain ⟨v1, hruns1, hresp1, hmsg1⟩ := runs_commandOps (accepted_seq op p l s1) (hp1.trans hp)
        (by rw [hl1]; exact hm) hdg1 hhx1
      obtain ⟨v2, hruns2, hresp2, hmsg2⟩ := runs_commandOps (accepted_seq op p l s2) (hp2.trans hp)
        (by rw [hl2]; exact hread.trans hm) hdg2 hhx2
      rw [hop1] at hruns1 hresp1
      rw [hop2] at hruns2 hresp2
      refine .inl ⟨_, v1, v2, hruns1, hruns2, sameView_of_responds hresp1 hresp2 ?_⟩
      rw [hmsg1, hmsg2, accepted_msg, accepted_msg, hmsg]
    | error f =>
      refine .inr fun ps t hps hrun => ?_
      cases ps with
      | nil =>
        cases hrun
        rw [accepted_seq]
        decide
      | cons q qs =>
        have hchk := exec_chk_of_valid (s := accepted op p l s1) (by rw [hp1, hp]) (by rw [hl1]; exact hlt)
        rw [runInputs_cons_of_step (step_withPorts (noReset_head hps) hdec1 nofun hchk)] at hrun
        refine seq_ne_zero_of_pad_fault (f := f) (noReset_tail hps) rfl ?_ hrun
        rw [← hl1] at hm
        exact hm

/-- Whatever inputs without reset leave the one core at `WAIT` leave the other there with the same view. -/
def Lockstep (ps : List Ports) : Prop :=
  ∀ s1 s2 t1 : State, SameView s1 s2 → NoReset ps → runInputs ps s1 = .next t1 → t1.seq = 0x000#12 →
    ∃ t2, runInputs ps s2 = .next t2 ∧ SameView t1 t2

/-- A command makes the views the same, whatever they were. -/
theorem lockstep_of_command {s1 s2 t1 : State} {op p : BitVec 1} {l : BitVec 64} {ps : List Ports}
    (hrest : ∀ n, Lockstep (ps.drop n)) (hs1 : s1.seq = 0x000#12) (hs2 : s2.seq = 0x000#12) (hmsg : s1.msg = s2.msg)
    (hps : NoReset ps) (hrun : runInputs (presents op p l :: ps) s1 = .next t1) (ht1 : t1.seq = 0x000#12) :
    ∃ t2, runInputs (presents op p l :: ps) s2 = .next t2 ∧ SameView t1 t2 := by
  rw [runInputs_cons_of_step (step_presents hs1 op p l)] at hrun
  rw [runInputs_cons_of_step (step_presents hs2 op p l)]
  obtain ⟨is, v1, v2, hruns1, hruns2, hview⟩ | hstuck := accepted_cases hmsg op p l
  · by_cases hlen : is.length ≤ ps.length
    · obtain ⟨q1, heq1⟩ := hruns1.runInputs_eq hps hlen
      obtain ⟨q2, heq2⟩ := hruns2.runInputs_eq hps hlen
      rw [heq1] at hrun
      rw [heq2]
      exact hrest is.length _ _ t1 (hview.withPorts q1 q2) (noReset_drop hps _) hrun ht1
    · obtain ⟨u, hu, hbusy⟩ := hruns1.runInputs_of_length_lt hps (Nat.lt_of_not_le hlen)
      rw [hu] at hrun
      cases hrun
      exact absurd ht1 hbusy
  · exact absurd ht1 (hstuck ps t1 hps hrun)

theorem eq_presents {q : Ports} (hrst : q.rst = 0#1) (hv : q.cmdValid = 1#1) :
    q = presents q.cmdOp q.msgPresent q.msgLen := by
  cases q
  cases hrst
  cases hv
  rfl

theorem step_wait_of_idle {s : State} {q : Ports} (hs : s.seq = 0x000#12) (hq : q.rst = 0#1)
    (hv : q.cmdValid ≠ 1#1) : step (s.withPorts q) = .next (s.withPorts q) := by
  have hrst : (s.withPorts q).ports.rst ≠ 1#1 := by rw [State.withPorts_ports, hq]; decide
  rw [step_of_decodeU (s := s.withPorts q) hrst ((seq_zero_iff_decodeU_wait _).1 hs)]
  exact exec_wait_of_not_valid hv

/-- By induction on the number of inputs: a step that holds keeps the view, and a command leads to fewer inputs. -/
theorem lockstep (ps : List Ports) : Lockstep ps := by
  induction hn : ps.length using Nat.strong_induction_on generalizing ps with
  | _ n ih =>
    intro s1 s2 t1 hview hps hrun ht1
    cases ps with
    | nil =>
      cases hrun
      exact ⟨s2, rfl, hview⟩
    | cons q qs =>
      rw [List.length_cons] at hn
      have hrst := noReset_head hps
      by_cases hv : q.cmdValid = 1#1
      · rw [eq_presents hrst hv] at hrun ⊢
        exact lockstep_of_command (fun k => ih _ (by rw [List.length_drop]; omega) _ rfl) hview.seq hview.seq' hview.msg
          (noReset_tail hps) hrun ht1
      · rw [runInputs_cons_of_step (step_wait_of_idle hview.seq hrst hv)] at hrun
        rw [runInputs_cons_of_step (step_wait_of_idle hview.seq' hrst hv)]
        exact ih qs.length (by omega) qs rfl _ _ t1 (hview.withPorts q q) (noReset_tail hps) hrun ht1

/-- Settles O58: after the first command the two cores are in lockstep. -/
theorem resultsDoNotDependOnThePast : Obligations.ResultsDoNotDependOnThePast := by
  intro s1 s2 t1 op p l ps hs1 hs2 hmsg hps hrun ht1
  obtain ⟨t2, hrun2, hview⟩ := lockstep_of_command (fun n => lockstep (ps.drop n)) hs1 hs2 hmsg hps hrun ht1
  obtain ⟨hdigest, hhex⟩ := hview.ports_eq
  exact ⟨t2, hrun2, hview.seq', hview.rspValid.symm, hview.rspStatus.symm, hview.phase.symm, hview.dg.symm,
    hview.hx.symm, hdigest, hhex⟩

end Sys2Proof.Machine
end
